-- ==== Sys2Proof/Word.lean ====
section
/-! DEFINITION. The widths of the hash block: bytes, 32-bit and 64-bit words, descriptors, response words.
(00_scope.md R5, R7; 30_encoding.md R60, R75) -/

namespace Sys2Proof

/-- One byte of memory, a `u8` (20_memory.md R40). -/
abbrev Byte := BitVec 8

/-- The working width of the 32-bit cores, a `u32` (40_primitives.md R90). -/
abbrev Word32 := BitVec 32

/-- The working width of the 64-bit cores, a `u64` (40_primitives.md R90); also the width of an address (R40). -/
abbrev Word64 := BitVec 64

/-- A command descriptor `D`: 192 bits delivered by value, no byte order (30_encoding.md R60). -/
abbrev Descriptor := BitVec 192

/-- A response `RSP` as one bit vector (30_encoding.md R75). -/
abbrev ResponseBits := BitVec 96

end Sys2Proof
end

