-- ==== Sys2Proof/Syntax.lean ====
section
/-! DEFINITION. The eight commands of the opcode map as one inductive type (30_encoding.md R71; opcode_table.json).
A command keeps EVERY field of its descriptor, used or ignored (R69, R70), so that no bit is lost by decoding and
"ignored" is a theorem about the meanings (log entry 20). -/

namespace Sys2Proof

/-- The eleven legal types of a scalar (30_encoding.md R63), in the order of their VTYPE codes 0 to 10. -/
inductive ScalarType where
  | float64
  | float32
  | int8
  | int16
  | int32
  | int64
  | uint8
  | uint16
  | uint32
  | uint64
  | bool
deriving DecidableEq, Repr

/-- The field VTYPE (30_encoding.md R63): a scalar type, or one of the reserved codes 11 to 15 (`reserved k` is the
code `11 + k`), which are illegal in a scalar command and ignored in a buffer command. -/
inductive VType where
  | scalar (t : ScalarType)
  | reserved (k : Fin 5)
deriving DecidableEq, Repr

/-- The fields of a command other than OP (30_encoding.md R60, R61, R70). -/
structure Args where
  /-- VTYPE, `CTRL[7:4]`. -/
  vtype : VType
  /-- VALID, `CTRL[8]`. -/
  valid : Bool
  /-- SEED_VALID, `CTRL[9]`. -/
  seedValid : Bool
  /-- LEN, `D[63:32]`, read as two's complement (R66). -/
  len : Word32
  /-- OPERAND, `D[127:64]`: VALUE of a scalar command, PTR of a buffer command (R67). -/
  operand : Word64
  /-- SEED, `D[191:128]`, of which only `SEED[31:0]` is ever used (R68). -/
  seed : Word64
deriving DecidableEq, Repr

/-- The commands, one constructor per row of the opcode map (30_encoding.md R71), in the order of OP. -/
inductive Instr where
  | hashValue32 (c : Args)
  | hashValue32Seeded (c : Args)
  | hashValue64 (c : Args)
  | hashValue64Seeded (c : Args)
  | hashBuf32 (c : Args)
  | hashBuf32Seeded (c : Args)
  | hashBuf64 (c : Args)
  | hashBuf64Seeded (c : Args)
deriving DecidableEq, Repr

end Sys2Proof
end

