-- ==== Sys2Proof/WellFormed.lean ====
section
/-! DEFINITION. Which commands a legal descriptor stands for: a scalar command has a VTYPE of 0 to 10
(30_encoding.md R72 (c)); a buffer command has any VTYPE (R69). No other field is ever illegal (R72). -/

namespace Sys2Proof

/-- VTYPE is one of the eleven types of 30_encoding.md R63. -/
def VType.legal : VType → Bool
  | .scalar _ => true
  | .reserved _ => false

/-- The command has a legal descriptor (30_encoding.md R72). -/
def Instr.wf : Instr → Bool
  | .hashValue32 c => c.vtype.legal
  | .hashValue32Seeded c => c.vtype.legal
  | .hashValue64 c => c.vtype.legal
  | .hashValue64Seeded c => c.vtype.legal
  | .hashBuf32 _ => true
  | .hashBuf32Seeded _ => true
  | .hashBuf64 _ => true
  | .hashBuf64Seeded _ => true

end Sys2Proof
end

