-- ==== Sys2Proof/Decode.lean ====
section
/-! DEFINITION. The decoder, total on any 192 bits and rejecting by name (30_encoding.md R60-R63, R70-R72), and after
it the encoder, written from the same tables. -/

namespace Sys2Proof

/-- Why a descriptor is illegal: the three conditions of 30_encoding.md R72. -/
inductive DecodeError where
  /-- (a) some bit of `CTRL[31:10]` is 1. -/
  | reservedBits
  /-- (b) `CTRL[3]` is 1, so OP is 8 to 15. -/
  | reservedOp
  /-- (c) BUF is 0 and VTYPE is 11 to 15. -/
  | reservedType
deriving DecidableEq, Repr

/-! ## The fields of a descriptor (30_encoding.md R60, R61) -/

/-- `CTRL = D[31:0]`. -/
def Descriptor.ctrl (d : Descriptor) : Word32 := d.extractLsb' 0 32

/-- `LEN = D[63:32]`. -/
def Descriptor.len (d : Descriptor) : Word32 := d.extractLsb' 32 32

/-- `OPERAND = D[127:64]`. -/
def Descriptor.operand (d : Descriptor) : Word64 := d.extractLsb' 64 64

/-- `SEED = D[191:128]`. -/
def Descriptor.seed (d : Descriptor) : Word64 := d.extractLsb' 128 64

/-- `OP = CTRL[3:0]`; bit 3 must be zero. -/
def ctrlOp (ctrl : Word32) : BitVec 4 := ctrl.extractLsb' 0 4

/-- `VTYPE = CTRL[7:4]`. -/
def ctrlVType (ctrl : Word32) : BitVec 4 := ctrl.extractLsb' 4 4

/-- `VALID = CTRL[8]`. -/
def ctrlValid (ctrl : Word32) : Bool := ctrl.getLsbD 8

/-- `SEED_VALID = CTRL[9]`. -/
def ctrlSeedValid (ctrl : Word32) : Bool := ctrl.getLsbD 9

/-- The reserved bits `CTRL[31:10]`. -/
def ctrlReserved (ctrl : Word32) : BitVec 22 := ctrl.extractLsb' 10 22

/-! ## VTYPE codes (30_encoding.md R63) -/

/-- The type a VTYPE code stands for. -/
def VType.ofCode (v : BitVec 4) : VType :=
  match v.toNat with
  | 0 => .scalar .float64
  | 1 => .scalar .float32
  | 2 => .scalar .int8
  | 3 => .scalar .int16
  | 4 => .scalar .int32
  | 5 => .scalar .int64
  | 6 => .scalar .uint8
  | 7 => .scalar .uint16
  | 8 => .scalar .uint32
  | 9 => .scalar .uint64
  | 10 => .scalar .bool
  | n => .reserved (Fin.ofNat 5 (n - 11))

/-- The VTYPE code of a scalar type. -/
def ScalarType.code : ScalarType → BitVec 4
  | .float64 => 0
  | .float32 => 1
  | .int8 => 2
  | .int16 => 3
  | .int32 => 4
  | .int64 => 5
  | .uint8 => 6
  | .uint16 => 7
  | .uint32 => 8
  | .uint64 => 9
  | .bool => 10

/-- The VTYPE code of a type. -/
def VType.code : VType → BitVec 4
  | .scalar t => t.code
  | .reserved k => BitVec.ofNat 4 (11 + k.val)

/-! ## Decoding (30_encoding.md R70) -/

/-- The command of the opcode map with the bits BUF, W64 and SEEDED of OP (30_encoding.md R62, R71). -/
def commandOf (buf w64 seeded : Bool) (c : Args) : Instr :=
  match buf, w64, seeded with
  | false, false, false => .hashValue32 c
  | false, false, true => .hashValue32Seeded c
  | false, true, false => .hashValue64 c
  | false, true, true => .hashValue64Seeded c
  | true, false, false => .hashBuf32 c
  | true, false, true => .hashBuf32Seeded c
  | true, true, false => .hashBuf64 c
  | true, true, true => .hashBuf64Seeded c

/-- `decode(D)` of 30_encoding.md R70: the three checks in its order, then the command with all its fields. -/
def decode (d : Descriptor) : Except DecodeError Instr :=
  let ctrl := Descriptor.ctrl d
  let op := ctrlOp ctrl
  let vtype := VType.ofCode (ctrlVType ctrl)
  if ctrlReserved ctrl ≠ 0 then .error .reservedBits
  else if op.getLsbD 3 then .error .reservedOp
  else if !op.getLsbD 2 && !vtype.legal then .error .reservedType
  else
    .ok (commandOf (op.getLsbD 2) (op.getLsbD 1) (op.getLsbD 0)
      { vtype := vtype, valid := ctrlValid ctrl, seedValid := ctrlSeedValid ctrl,
        len := Descriptor.len d, operand := Descriptor.operand d, seed := Descriptor.seed d })

/-! ## Encoding (30_encoding.md R60, R61, R71) -/

/-- OP of a command (the opcode map of 30_encoding.md R71). -/
def Instr.op : Instr → BitVec 4
  | .hashValue32 _ => 0
  | .hashValue32Seeded _ => 1
  | .hashValue64 _ => 2
  | .hashValue64Seeded _ => 3
  | .hashBuf32 _ => 4
  | .hashBuf32Seeded _ => 5
  | .hashBuf64 _ => 6
  | .hashBuf64Seeded _ => 7

/-- The fields of a command. -/
def Instr.args : Instr → Args
  | .hashValue32 c => c
  | .hashValue32Seeded c => c
  | .hashValue64 c => c
  | .hashValue64Seeded c => c
  | .hashBuf32 c => c
  | .hashBuf32Seeded c => c
  | .hashBuf64 c => c
  | .hashBuf64Seeded c => c

/-- The control word (30_encoding.md R61), most significant field first. -/
def encodeCtrl (op : BitVec 4) (c : Args) : Word32 :=
  0#22 ++ BitVec.ofBool c.seedValid ++ BitVec.ofBool c.valid ++ c.vtype.code ++ op

/-- The descriptor of a command: SEED, OPERAND, LEN, CTRL, most significant first (30_encoding.md R60). -/
def encode (i : Instr) : Descriptor :=
  i.args.seed ++ i.args.operand ++ i.args.len ++ encodeCtrl i.op i.args

/-- The command the decoder reads from a descriptor whose low `nbits` bits are those of `w` and whose other bits are 0.
A descriptor is a value and no memory image (30_encoding.md R60), so there are no bytes to lay out. -/
def decodeTableWord (nbits w : Nat) : Option Instr :=
  match decode (BitVec.ofNat 192 (w % 2 ^ nbits)) with
  | .ok i => some i
  | .error _ => none

end Sys2Proof
end

