-- ==== Sys2Proof/Machine/State.lean ====
section
/-! DEFINITION. The state of the hash block and of what stands around it, as plain data; the reasons a step can stop.
INVENTORY.md lists every field with its rule and its reset value. -/

namespace Sys2Proof.Machine

/-- STATUS of a response (30_encoding.md R75): the three codes the block produces; code 3 is never produced. -/
inductive Status where
  /-- Code 0: a computed digest, or the sentinel. -/
  | ok
  /-- Code 1: the descriptor is illegal (60_exceptions.md R170). -/
  | illegalDescriptor
  /-- Code 2: a byte of the buffer is not readable (60_exceptions.md R171). -/
  | readFault
deriving DecidableEq, Repr

/-- A response (10_state.md R23, 30_encoding.md R75). DIGEST is a free value when STATUS is not OK (log entry 7). -/
structure Response where
  /-- STATUS. -/
  status : Status
  /-- DIGEST, 64 bits. -/
  digest : Word64
deriving DecidableEq, Repr

/-- The working registers of the cores (10_state.md R22). -/
structure Working where
  /-- The running 32-bit hash state. -/
  h : Word32
  /-- The block or tail word being mixed by a 32-bit core. -/
  k : Word32
  /-- First half of the 128-bit state. -/
  h1 : Word64
  /-- Second half of the 128-bit state. -/
  h2 : Word64
  /-- First word of a block or tail. -/
  k1 : Word64
  /-- Second word of a block or tail. -/
  k2 : Word64
  /-- Index of the block being absorbed, 30 bits (R22, R24). -/
  i : BitVec 30
deriving DecidableEq, Repr

/-- The working registers at reset: the spec gives no value (10_state.md R31); DESIGN CHOICE 0, log entry 9. -/
def Working.reset : Working :=
  { h := 0, k := 0, h1 := 0, h2 := 0, k1 := 0, k2 := 0, i := 0 }

/-- The control state of the block (10_state.md R25). The descriptor latch (R21) exists while a command is in flight,
the response latch (R23) while a response waits to be taken. -/
inductive Control where
  /-- No command in flight, no response pending. -/
  | idle
  /-- The command with descriptor `d` is in flight. -/
  | busy (d : Descriptor)
  /-- The response `r` waits to be taken. -/
  | done (r : Response)
deriving DecidableEq, Repr

/-- A range of addresses `[base, base + size)`. -/
structure Region where
  base : Nat
  size : Nat
deriving DecidableEq, Repr

/-- One thing the host does (70_reset_and_hazards.md R193). -/
inductive HostAction where
  /-- Present the descriptor `d`; with `chain = some n` its SEED field is filled with the DIGEST of the response to line
  `n` of the run, the first line being 1 (R192, `$n` of 30_encoding.md R78). -/
  | present (d : Descriptor) (chain : Option Nat)
  /-- Take the response. -/
  | take
  /-- Wait until a response is available. What stands before it in the list and after the presenting happens while the
  command is in flight, what stands after it happens when the response is available (20_memory.md R52 (a)). -/
  | await
  /-- Write byte `b` at address `a`, visible to the block's read port (20_memory.md R42, R52 (b)); by the host or by
  any other agent. -/
  | write (a : Word64) (b : Byte)
  /-- Assert the reset input (R190). -/
  | reset
deriving DecidableEq, Repr

/-- The parameter `Mem` (00_scope.md R5, 20_memory.md R40, R42): the bytes of the data memory by address, addresses
rising. An address that is not listed holds the byte `Memory.unlisted`, which no entry holds (log entry 3). Which
addresses may be read is no part of it. -/
abbrev Memory := List Host.Cell

/-- Everything there is. -/
structure State where
  /-- Control state, with the descriptor latch and the response latch (10_state.md R21, R23, R25). -/
  control : Control
  /-- The working registers (10_state.md R22). -/
  work : Working
  /-- The data memory: the parameter `Mem` (10_state.md R30). -/
  mem : Memory
  /-- The parameter `Readable` (10_state.md R30, 20_memory.md R43): the ranges the block's read port may read. The
  platform's; no step changes it (log entry 3). -/
  readable : List Region
  /-- The ranges whose reads have side effects (20_memory.md R48; log entry 4). -/
  sideEffecting : List Region
  /-- The bytes that writes have overwritten since the command in flight was presented, with their addresses, newest
  first: what a racing read may still return (20_memory.md R49; log entry 5). -/
  overwritten : List Host.Cell
  /-- What the host is about to do, in order (70_reset_and_hazards.md R193; log entry 2). -/
  inbox : List HostAction
  /-- The responses the host has taken, in order: the result of a run (70_reset_and_hazards.md R192). -/
  responses : List Response
  /-- A reset has cut a command short (93 U9; 70_reset_and_hazards.md R192; log entry 11). -/
  cut : Bool
  /-- The model's own counter of commands, for the free values (log entry 8). -/
  fresh : Nat
deriving DecidableEq, Repr

/-- The machine right after reset (10_state.md R31, 70_reset_and_hazards.md R190): Idle, no response pending, and
nothing else; memory with nothing listed and every address readable (log entry 3). -/
def State.reset : State :=
  { control := .idle, work := Working.reset, mem := [], readable := [⟨0, 2 ^ 64⟩], sideEffecting := [],
    overwritten := [], inbox := [], responses := [], cut := false, fresh := 0 }

/-- Faults that stop the machine: none. Both abnormal conditions of the spec, an illegal descriptor and an unreadable
byte, end the command with a response after which the block goes on (60_exceptions.md R175, R177), so they are next
states (log entry 19). Nobody raises a fault, which is safe: no behaviour of the block is left out by it. -/
inductive Fault where
deriving DecidableEq, Repr

/-- Why a step has no meaning. -/
inductive Refusal where
  /-- Raised by no meaning: every command of the table has its meaning. Safe. -/
  | notModelled (mnemonic : String)
  /-- Raised by a buffer command with the gate open and a negative LEN (30_encoding.md R66: "the block does not check
  for it, and a model refuses it"; 93 U3). Safe: the spec defines no response. -/
  | negativeLength
  /-- Raised by a buffer command with the gate open whose range passes 2^64 (20_memory.md R50: "a model refuses it";
  93 U4). Safe: the spec defines no response. -/
  | rangeWraps
  /-- Raised by a buffer command with the gate open and a byte in memory whose reads have side effects (20_memory.md
  R48: "a model refuses such a launch"; 93 U6). Safe: the spec defines no response. -/
  | sideEffectingBuffer
deriving DecidableEq, Repr

end Sys2Proof.Machine
end

