-- ==== Sys2Proof/Machine/Flags.lean ====
section
/-! DEFINITION. The hash block has no flags and no condition codes (10_state.md R26). What stands in their place is
STATUS, a field of one response: its codes, and the response as the 96 bits the host receives (30_encoding.md R75). -/

namespace Sys2Proof.Machine

/-- The code of a status in `RSP[65:64]` (30_encoding.md R75). -/
def Status.code : Status → BitVec 2
  | .ok => 0
  | .illegalDescriptor => 1
  | .readFault => 2

/-- The response as delivered: 30 zero bits, STATUS, DIGEST (30_encoding.md R75). -/
def Response.bits (r : Response) : ResponseBits :=
  0#30 ++ r.status.code ++ r.digest

/-- DIGEST of a 32-bit digest: sign-extended to 64 bits (30_encoding.md R76). -/
def placeDigest32 (d : Word32) : Word64 :=
  d.signExtend 64

end Sys2Proof.Machine
end

