-- ==== Sys2Proof/Machine/Primitives.lean ====
section
/-! DEFINITION. The mixing primitives of 40_primitives.md: total functions on fixed-width words. `+`, `*`, `^`, `<<`
wrap and `>>` is logical (R90, R91), as they are on bit vectors. The steps the spec supplies from general knowledge
(K1 to K4) are marked there and followed here as its rules state them (log entry 17). -/

namespace Sys2Proof.Machine

/-- Rotate left (40_primitives.md R92). -/
def rotl32 (x : Word32) (r : Nat) : Word32 :=
  (x <<< r) ||| (x >>> (32 - r))

/-- Rotate left (40_primitives.md R93). -/
def rotl64 (x : Word64) (r : Nat) : Word64 :=
  (x <<< r) ||| (x >>> (64 - r))

/-- The 32-bit avalanche finalizer (40_primitives.md R94). -/
def fmix32 (h0 : Word32) : Word32 :=
  let h1 := h0 ^^^ (h0 >>> 16)
  let h2 := h1 * 0x85ebca6b#32
  let h3 := h2 ^^^ (h2 >>> 13)
  let h4 := h3 * 0xc2b2ae35#32
  h4 ^^^ (h4 >>> 16)

/-- The 64-bit avalanche finalizer (40_primitives.md R95). -/
def fmix64 (x0 : Word64) : Word64 :=
  let x1 := x0 ^^^ (x0 >>> 33)
  let x2 := x1 * 0xff51afd7ed558ccd#64
  let x3 := x2 ^^^ (x2 >>> 33)
  let x4 := x3 * 0xc4ceb9fe1a85ec53#64
  x4 ^^^ (x4 >>> 33)

/-- Prepares a 32-bit word for absorption (40_primitives.md R97). -/
def kmix32 (k : Word32) : Word32 :=
  rotl32 (k * 0xcc9e2d51#32) 15 * 0x1b873593#32

/-- Absorbs one full 32-bit word (40_primitives.md R98). -/
def round32 (h k : Word32) : Word32 :=
  rotl32 (h ^^^ kmix32 k) 13 * 5#32 + 0xe6546b64#32

/-- Prepares a first word; multiplies by `c1`, then by `c2` (40_primitives.md R99). -/
def k1mix (k : Word64) : Word64 :=
  rotl64 (k * 0x87c37b91114253d5#64) 31 * 0x4cf5ad432745937f#64

/-- Prepares a second word; multiplies by `c2`, then by `c1` (40_primitives.md R100). -/
def k2mix (k : Word64) : Word64 :=
  rotl64 (k * 0x4cf5ad432745937f#64) 33 * 0x87c37b91114253d5#64

/-- The new `h1` of a 16-byte block (40_primitives.md R101, first half). -/
def blockH1 (h1 h2 k1 : Word64) : Word64 :=
  (rotl64 (h1 ^^^ k1mix k1) 27 + h2) * 5#64 + 0x52dce729#64

/-- The new `h2` of a 16-byte block, from the NEW `h1` (40_primitives.md R101, second half). -/
def blockH2 (newH1 h2 k2 : Word64) : Word64 :=
  (rotl64 (h2 ^^^ k2mix k2) 31 + newH1) * 5#64 + 0x38495ab5#64

/-- Absorbs one full 16-byte block (40_primitives.md R101). -/
def block64 (h1 h2 k1 k2 : Word64) : Word64 × Word64 :=
  (blockH1 h1 h2 k1, blockH2 (blockH1 h1 h2 k1) h2 k2)

/-- The 128-bit state and the length to the 64-bit digest; the second half is discarded (40_primitives.md R102). -/
def final64 (h1 h2 n : Word64) : Word64 :=
  let a := (h1 ^^^ n) + (h2 ^^^ n)
  let b := (h2 ^^^ n) + a
  fmix64 a + fmix64 b

/-- The 32-bit state and the length to the 32-bit digest (40_primitives.md R103). -/
def final32 (h n : Word32) : Word32 :=
  fmix32 (h ^^^ n)

/-- `le` of a byte sequence, as a `w`-bit word: the byte at the lowest address is the least significant
(00_scope.md R10, 20_memory.md R44). Each byte is zero-extended, never sign-extended (42_buffer.md R130). -/
def leWord (w : Nat) : List Byte → BitVec w
  | [] => 0
  | b :: rest => b.setWidth w ||| (leWord w rest <<< 8)

end Sys2Proof.Machine
end

