-- ==== Sys2Proof/Machine/Cores.lean ====
section
/-! DEFINITION. The four cores over the working registers of 10_state.md R22: `hash32`, `hash64` (41_fixed_width.md
R118, R119), `hash32_buf`, `hash64_buf` (42_buffer.md R134, R138). Each starts by writing its registers from the seed and
leaves its digest in `h` or `h1`; the digest functions read it there. -/

namespace Sys2Proof.Machine

/-! ## Steps on the registers -/

/-- The 32-bit cores start from the seed as a `u32` (43_null_seed_contract.md R151). -/
def start32 (seed : Word32) (w : Working) : Working :=
  { w with h := seed }

/-- Absorb one full 32-bit word (40_primitives.md R98). -/
def absorb32 (k : Word32) (w : Working) : Working :=
  { w with k := k, h := round32 w.h k }

/-- Absorb a tail word: the `k` part of the round only (42_buffer.md R133). -/
def absorbTail32 (k : Word32) (w : Working) : Working :=
  { w with k := k, h := w.h ^^^ kmix32 k }

/-- Finalize with length `n` (40_primitives.md R103). What the other registers hold once a core has ended is the model's
choice: DESIGN CHOICE, log entry 22. -/
def finish32 (n : Word32) (w : Working) : Working :=
  { w with h := final32 w.h n }

/-- The 64-bit cores start from the seed, sign-extended, in both halves (43_null_seed_contract.md R151). -/
def start64 (seed : Word32) (w : Working) : Working :=
  { w with h1 := seed.signExtend 64, h2 := seed.signExtend 64 }

/-- Absorb one full 16-byte block (40_primitives.md R101). -/
def absorb64 (k1 k2 : Word64) (w : Working) : Working :=
  let (h1, h2) := block64 w.h1 w.h2 k1 k2
  { w with k1 := k1, k2 := k2, h1 := h1, h2 := h2 }

/-- Mix a second tail word into `h2`, nothing more (42_buffer.md R137). -/
def absorbTailK2 (k2 : Word64) (w : Working) : Working :=
  { w with k2 := k2, h2 := w.h2 ^^^ k2mix k2 }

/-- Mix a first tail word into `h1`, nothing more (42_buffer.md R137; the one word of 41_fixed_width.md R119). -/
def absorbTailK1 (k1 : Word64) (w : Working) : Working :=
  { w with k1 := k1, h1 := w.h1 ^^^ k1mix k1 }

/-- Finalize with length `n`; the second half is discarded (40_primitives.md R102). The register `h2` keeps what it held
before the finalization, which the spec leaves open: DESIGN CHOICE, log entry 22. -/
def finish64 (n : Word64) (w : Working) : Working :=
  { w with h1 := final64 w.h1 w.h2 n }

/-- The buffer cores start with block 0 (10_state.md R22). The fixed-width cores have no block and leave `i` alone. -/
def firstBlock (w : Working) : Working :=
  { w with i := 0 }

/-- The block index moves to the next block (10_state.md R24). After the last block it stands at the number of blocks,
which the spec leaves open: DESIGN CHOICE, log entry 22. -/
def nextBlock (w : Working) : Working :=
  { w with i := w.i + 1 }

/-! ## FixedWidthCore -/

/-- `hash32(bits, seed)` on the registers: chunk 0, then chunk 1, length 8 (41_fixed_width.md R118). -/
def runHash32 (bits : Word64) (seed : Word32) (w : Working) : Working :=
  finish32 8 (absorb32 (bits.extractLsb' 32 32) (absorb32 (bits.extractLsb' 0 32) (start32 seed w)))

/-- `hash64(bits, seed)` on the registers: one word absorbed as a tail word, length 8 (41_fixed_width.md R119). -/
def runHash64 (bits : Word64) (seed : Word32) (w : Working) : Working :=
  finish64 8 (absorbTailK1 bits (start64 seed w))

/-! ## BufferCore -/

/-- `B[lo .. hi)` (00_scope.md R10). -/
def slice (B : List Byte) (lo hi : Nat) : List Byte :=
  (B.drop lo).take (hi - lo)

/-- The words of the first `nb` 4-byte blocks, `le(B[4i .. 4i+4))` in ascending order (42_buffer.md R131). -/
def words32 (B : List Byte) (nb : Nat) : List Word32 :=
  (List.range nb).map (fun i => leWord 32 (slice B (4 * i) (4 * i + 4)))

/-- Absorb the first `nb` 4-byte blocks (42_buffer.md R131). -/
def blocks32 (B : List Byte) (nb : Nat) (w : Working) : Working :=
  (words32 B nb).foldl (fun w k => nextBlock (absorb32 k w)) w

/-- The 0 to 3 tail bytes (42_buffer.md R132, R133). -/
def tail32 (T : List Byte) (w : Working) : Working :=
  if 0 < T.length then absorbTail32 (leWord 32 T) w else w

/-- `hash32_buf(B, n, seed)` on the registers, `n` being the length of `B` (42_buffer.md R134). -/
def runHash32Buf (B : List Byte) (seed : Word32) (w : Working) : Working :=
  let n := B.length
  let nb := n / 4
  finish32 (BitVec.ofNat 32 n) (tail32 (slice B (4 * nb) n) (blocks32 B nb (firstBlock (start32 seed w))))

/-- The word pairs of the first `nb` 16-byte blocks, `le(B[16i .. 16i+8))` and `le(B[16i+8 .. 16i+16))` in ascending
order (42_buffer.md R135). -/
def words64 (B : List Byte) (nb : Nat) : List (Word64 × Word64) :=
  (List.range nb).map (fun i => (leWord 64 (slice B (16 * i) (16 * i + 8)), leWord 64 (slice B (16 * i + 8) (16 * i + 16))))

/-- Absorb the first `nb` 16-byte blocks (42_buffer.md R135). -/
def blocks64 (B : List Byte) (nb : Nat) (w : Working) : Working :=
  (words64 B nb).foldl (fun w k => nextBlock (absorb64 k.1 k.2 w)) w

/-- The 0 to 15 tail bytes: `k2` from byte 8 on where there are 9 or more, then `k1` from the first 8 where there is
one (42_buffer.md R136, R137); both words start at 0. -/
def tail64 (T : List Byte) (w : Working) : Working :=
  let w0 := { w with k1 := 0, k2 := 0 }
  let w1 := if 9 ≤ T.length then absorbTailK2 (leWord 64 (T.drop 8)) w0 else w0
  if 1 ≤ T.length then absorbTailK1 (leWord 64 (T.take 8)) w1 else w1

/-- `hash64_buf(B, n, seed)` on the registers, `n` being the length of `B` (42_buffer.md R138). -/
def runHash64Buf (B : List Byte) (seed : Word32) (w : Working) : Working :=
  let n := B.length
  let nb := n / 16
  finish64 (BitVec.ofNat 64 n) (tail64 (slice B (16 * nb) n) (blocks64 B nb (firstBlock (start64 seed w))))

/-! ## The digests -/

/-- `hash32(bits, seed)` (41_fixed_width.md R118). -/
def coreHash32 (bits : Word64) (seed : Word32) : Word32 :=
  (runHash32 bits seed Working.reset).h

/-- `hash64(bits, seed)` (41_fixed_width.md R119). -/
def coreHash64 (bits : Word64) (seed : Word32) : Word64 :=
  (runHash64 bits seed Working.reset).h1

/-- `hash32_buf(B, n, seed)` (42_buffer.md R134). -/
def coreHash32Buf (B : List Byte) (seed : Word32) : Word32 :=
  (runHash32Buf B seed Working.reset).h

/-- `hash64_buf(B, n, seed)` (42_buffer.md R138). -/
def coreHash64Buf (B : List Byte) (seed : Word32) : Word64 :=
  (runHash64Buf B seed Working.reset).h1

/-! ## From the registers to DIGEST (30_encoding.md R76) -/

/-- DIGEST of a 32-bit core, read from `h`. -/
def digest32 (w : Working) : Word64 :=
  placeDigest32 w.h

/-- DIGEST of a 64-bit core, read from `h1`; `h2` is discarded. -/
def digest64 (w : Working) : Word64 :=
  w.h1

end Sys2Proof.Machine
end

