-- ==== Sys2Proof/Config.lean ====
section
/-! DEFINITION. What the platform or the implementation fixes and the spec leaves open: free values, each an opaque
constant without a body, so nothing can be proved of the value it has. A statement holds for every value of them. -/

namespace Sys2Proof

/-- The sign bit of the double a binary32 NaN `w` widens to (41_fixed_width.md R115, `widenNaN`; log entry 6). -/
opaque Config.nanSign : Word32 → Bool

/-- The fraction, less one, of the double a binary32 NaN `w` widens to: the fractions of the binary64 NaNs are
exactly 1 to 2^52 - 1, so this ranges over all of them and over nothing else (R115; log entry 6). -/
opaque Config.nanFraction : Word32 → Fin 4503599627370495

/-- DIGEST of an abnormal response (30_encoding.md R75: "unspecified when STATUS != 0"; 93 U8), a fresh one for every
command (log entry 7). -/
opaque Config.unspecifiedDigest : Nat → Word64

/-- Which of the old and the racing new bytes a read returns, by the command's number and the address
(20_memory.md R49, 93 U5; log entry 5). -/
opaque Config.raceChoice : Nat → Nat → Nat

end Sys2Proof
end

