-- ==== Sys2Proof/Machine/Operands.lean ====
section
/-! DEFINITION. Operand assembly (30_encoding.md R77): the 8-byte word of a scalar (41_fixed_width.md R110 to R116), the
validity gate and the effective seed (43_null_seed_contract.md R150, R151), the range of a buffer. -/

namespace Sys2Proof.Machine

/-! ## Integers to binary64 (41_fixed_width.md R112, R113) -/

/-- The 53-bit significand of `m` (highest one bit at `p`) before the carry is looked at: exact for `p <= 52`, else
rounded to nearest, ties to even (R112, R113). -/
def roundedSignificand (m p : Nat) : Nat :=
  if p ≤ 52 then m * 2 ^ (52 - p)
  else
    let s := p - 52
    let q := m / 2 ^ s
    let rem := m % 2 ^ s
    let half := 2 ^ (s - 1)
    if half < rem ∨ (rem = half ∧ q % 2 = 1) then q + 1 else q

/-- `int_to_f64(neg, m)` (R112): the sum in the last line is on natural numbers, so a rounded significand of 2^53 carries
into the exponent. -/
def intToF64 (neg : Bool) (m : Nat) : Word64 :=
  if m = 0 then 0
  else
    let p := Nat.log2 m
    BitVec.ofNat 64 ((if neg then 2 ^ 63 else 0) + (p + 1023) * 2 ^ 52 + (roundedSignificand m p - 2 ^ 52))

/-- A signed integer to binary64, by its sign and magnitude (R110). -/
def signedToF64 (v : Int) : Word64 :=
  intToF64 (v < 0) v.natAbs

/-! ## Binary32 to binary64 (41_fixed_width.md R114, R115) -/

/-- What a binary32 NaN widens to (R115): a binary64 NaN, with nothing else known of it. -/
def widenNaN (w : Word32) : Word64 :=
  BitVec.ofBool (Config.nanSign w) ++ 0x7ff#11 ++ BitVec.ofNat 52 ((Config.nanFraction w).val + 1)

/-- `f32_to_f64(w)` (R114). -/
def f32ToF64 (w : Word32) : Word64 :=
  let s := w.extractLsb' 31 1
  let e := w.extractLsb' 23 8
  let f := w.extractLsb' 0 23
  if e = 0 then
    if f = 0 then s ++ 0#63
    else
      let p := Nat.log2 f.toNat
      s ++ BitVec.ofNat 11 (p + 874) ++ BitVec.ofNat 52 (f.toNat * 2 ^ (52 - p))
  else if e = 255 then
    if f = 0 then s ++ 0x7ff#11 ++ 0#52 else widenNaN w
  else s ++ BitVec.ofNat 11 (e.toNat + 896) ++ f ++ 0#29

/-! ## A scalar to its 8-byte word -/

/-- `to_bits(VTYPE, OPERAND)` (41_fixed_width.md R110); the bits of OPERAND above the type's width are ignored (R63). -/
def toBits (t : ScalarType) (operand : Word64) : Word64 :=
  match t with
  | .float64 => operand
  | .float32 => f32ToF64 (operand.extractLsb' 0 32)
  | .int8 => signedToF64 (operand.extractLsb' 0 8).toInt
  | .int16 => signedToF64 (operand.extractLsb' 0 16).toInt
  | .int32 => signedToF64 (operand.extractLsb' 0 32).toInt
  | .int64 => signedToF64 operand.toInt
  | .uint8 => intToF64 false (operand.extractLsb' 0 8).toNat
  | .uint16 => intToF64 false (operand.extractLsb' 0 16).toNat
  | .uint32 => intToF64 false (operand.extractLsb' 0 32).toNat
  | .uint64 => intToF64 false operand.toNat
  | .bool => if operand.getLsbD 0 then 0x3ff0000000000000#64 else 0

/-! ## Gate, seed, buffer range -/

/-- The validity gate (43_null_seed_contract.md R150): the value is valid, and the seed too where one is required. -/
def gateOpen (seeded : Bool) (c : Args) : Bool :=
  c.valid && (!seeded || c.seedValid)

/-- `effective_seed` (43_null_seed_contract.md R151): 0 for an unseeded command, else `SEED[31:0]`. -/
def effectiveSeed (seeded : Bool) (c : Args) : Word32 :=
  if seeded then c.seed.extractLsb' 0 32 else 0

/-- `PTR`, the address of the first byte, as an unbounded integer (20_memory.md R50). -/
def bufferBase (c : Args) : Nat :=
  c.operand.toNat

/-- `LEN` of a launch with `LEN >= 0` (30_encoding.md R66). -/
def bufferLength (c : Args) : Nat :=
  c.len.toNat

/-- Some address of `[base, base + n)` lies in the region. -/
def Region.meets (r : Region) (base n : Nat) : Bool :=
  decide (max r.base base < min (r.base + r.size) (base + n))

/-- Why a buffer command with the gate open is no launch at all (60_exceptions.md R173, R174 (3)): LEN is negative
(R66), the range passes 2^64 (R50), or some byte lies in memory whose reads have side effects (R48); log entry 14. -/
def launchRefusal (c : Args) (s : State) : Option Refusal :=
  if c.len.msb then some .negativeLength
  else if 2 ^ 64 < bufferBase c + bufferLength c then some .rangeWraps
  else if s.sideEffecting.any (fun r => r.meets (bufferBase c) (bufferLength c)) then some .sideEffectingBuffer
  else none

end Sys2Proof.Machine
end

