-- ==== Sys2Proof/Machine/Ops.lean ====
section
/-! DEFINITION. The named operations over memory, the read port, the response latch and the host's side: every meaning
and every step is written from these. -/

namespace Sys2Proof.Machine

/-! ## Memory -/

/-- The byte at an address nothing lists: the spec gives no contents of memory; DESIGN CHOICE 0, log entry 3. -/
def Memory.unlisted : Byte := 0

/-- The byte at an address (20_memory.md R42). -/
def Memory.read : Memory → Nat → Byte
  | [], _ => Memory.unlisted
  | c :: rest, a => if c.1 = a then c.2 else Memory.read rest a

/-- The memory without an entry for the address. -/
def Memory.erase (m : Memory) (a : Nat) : Memory :=
  m.filter (fun c => decide (c.1 ≠ a))

/-- The memory with an entry for the address, in its place by address. -/
def Memory.insert : Memory → Nat → Byte → Memory
  | [], a, b => [(a, b)]
  | c :: rest, a, b =>
    if a < c.1 then (a, b) :: c :: rest
    else if a = c.1 then (a, b) :: rest
    else c :: Memory.insert rest a b

/-- A write by the host or another agent, in canonical form (the block itself never writes: 20_memory.md R41). -/
def Memory.write (m : Memory) (a : Nat) (b : Byte) : Memory :=
  if b = Memory.unlisted then m.erase a else m.insert a b

/-- The canonical form: addresses strictly rising, all below 2^64 (20_memory.md R40), and no entry that holds what an
unlisted address holds. -/
abbrev Memory.wf (m : Memory) : Prop :=
  m.Pairwise (fun c d => c.1 < d.1) ∧ ∀ c ∈ m, c.1 < 2 ^ 64 ∧ c.2 ≠ Memory.unlisted

/-! ## The read port -/

/-- The address lies in the region. -/
def Region.contains (r : Region) (a : Nat) : Bool :=
  decide (r.base ≤ a ∧ a < r.base + r.size)

/-- `Readable(a)` (20_memory.md R43). No write changes it. -/
def State.isReadable (s : State) (a : Nat) : Bool :=
  s.readable.any (fun r => r.contains a)

/-- The bytes that stood at address `a` before a write that landed while the command is in flight (20_memory.md R49). -/
def racedBytes (s : State) (a : Nat) : List Byte :=
  (s.overwritten.filter (fun c => decide (c.1 = a))).map (fun c => c.2)

/-- The byte a read of `a` returns if it is readable: memory's byte, or, where writes have raced with the command, that or
one they have overwritten, independently per byte (20_memory.md R47, R49, 93 U5; log entry 5). -/
def portByte (s : State) (a : Nat) : Byte :=
  match racedBytes s a with
  | [] => s.mem.read a
  | bs => bs.getD (Config.raceChoice s.fresh a % (bs.length + 1)) (s.mem.read a)

/-- One byte read by the port. An address that is not readable is refused, whatever has been written there, before or
during the command: 20_memory.md R43 gives no value there, and R49 only chooses between bytes (log entry 5). -/
def portRead (s : State) (a : Nat) : Option Byte :=
  if s.isReadable a then some (portByte s a) else none

/-- The two abnormal ends of a command (60_exceptions.md R170 to R172). -/
inductive Abnormal where
  | illegalDescriptor
  | readFault (a : Nat)
deriving DecidableEq, Repr

/-- The `n` bytes at `a`, `a + 1`, ... by single byte reads in ascending order (20_memory.md R45, R47), or the first
address that is not readable (R43; log entries 15, 21). -/
def readBytes (s : State) (a : Nat) : Nat → Except Abnormal (List Byte)
  | 0 => .ok []
  | n + 1 =>
    match portRead s a with
    | none => .error (.readFault a)
    | some b =>
      match readBytes s (a + 1) n with
      | .error e => .error e
      | .ok bs => .ok (b :: bs)

/-! ## Ending a command -/

/-- The command in flight ends with response `r` and working registers `w` (10_state.md R25: `Busy(D) -> Done(RSP)`). -/
def respond (r : Response) (w : Working) (s : State) : State :=
  { s with control := .done r, work := w, fresh := s.fresh + 1 }

/-- STATUS of an abnormal response (60_exceptions.md R170, R171). -/
def Abnormal.status : Abnormal → Status
  | .illegalDescriptor => .illegalDescriptor
  | .readFault _ => .readFault

/-- Taking an exception is the abnormal response and nothing more (60_exceptions.md R175): no state is saved, no mode
changes, nothing is written, and DIGEST is unspecified (30_encoding.md R75; log entries 7, 10, 19). -/
def takeAbnormal (e : Abnormal) (s : State) : State :=
  respond { status := e.status, digest := Config.unspecifiedDigest s.fresh } s.work s

/-- The sentinel: STATUS OK and DIGEST 0, nothing computed and nothing read (43_null_seed_contract.md R152;
log entry 10). -/
def takeSentinel (s : State) : State :=
  respond { status := .ok, digest := 0 } s.work s

/-! ## The host's side -/

/-- The block returns to Idle and holds no data (10_state.md R20, R25; 60_exceptions.md R185; log entry 9), and no write
races with anything. The counterpart of `takeAbnormal`: there is no return instruction, the response is taken (60_exceptions.md R175, R177). -/
def toIdle (s : State) : State :=
  { s with control := .idle, work := Working.reset, overwritten := [] }

/-- The response is taken: the latch is emptied, the block is Idle (70_reset_and_hazards.md R193, 10_state.md R23). -/
def takeResponse (r : Response) (s : State) : State :=
  { toIdle s with responses := s.responses ++ [r] }

/-- SEED of a descriptor filled with `v`, as the host does for seed chaining (43_null_seed_contract.md R163). -/
def withSeed (d : Descriptor) (v : Word64) : Descriptor :=
  v ++ d.extractLsb' 0 128

/-- The descriptor the host presents: as given, or with SEED filled from the response to line `n` once that has been
taken (70_reset_and_hazards.md R192; lines count from 1; log entry 13). -/
def presented (responses : List Response) (d : Descriptor) : Option Nat → Option Descriptor
  | none => some d
  | some 0 => none
  | some (n + 1) => (responses[n]?).map (fun r => withSeed d r.digest)

/-- The reset input (70_reset_and_hazards.md R190): Idle, nothing pending; a command in flight or a response not yet
taken is abandoned, which marks the run (log entry 11). Memory is not reset (10_state.md R31). -/
def applyReset (s : State) : State :=
  { toIdle s with cut := s.cut || decide (s.control ≠ .idle) }

/-- A write by the host's side lands (20_memory.md R42). -/
def hostWrite (a : Word64) (b : Byte) (s : State) : State :=
  { s with mem := s.mem.write a.toNat b }

/-- A write by the host's side lands while a command is in flight (20_memory.md R49). -/
def racingWrite (a : Word64) (b : Byte) (s : State) : State :=
  { hostWrite a b s with overwritten := (a.toNat, s.mem.read a.toNat) :: s.overwritten }

/-- The host presents a descriptor to the idle block: `Idle -> Busy(D)` (10_state.md R21, R25). From here on writes
race (20_memory.md R49). -/
def accept (d : Descriptor) (s : State) : State :=
  { s with control := .busy d, overwritten := [] }

/-- The host does this while a command is in flight; for the rest it waits for the response. -/
def HostAction.interferes : HostAction → Bool
  | .write _ _ => true
  | .reset => true
  | .present _ _ => false
  | .take => false
  | .await => false

/-- The host does nothing more while the command is in flight: it is not about to write or to assert reset. -/
def hostWaits (s : State) : Bool :=
  match s.inbox with
  | x :: _ => !x.interferes
  | [] => true

/-- One step in which reset is asserted, whatever the block is doing (70_reset_and_hazards.md R193: "reset at any
time"). -/
def resetTurn (s : State) : State :=
  applyReset { s with inbox := s.inbox.tail }

/-- One step while the block is Idle: the host's next action. A host that wants a response waits, and so does one whose
seed is not there yet (70_reset_and_hazards.md R192, R195; log entry 12). -/
def idleTurn (s : State) : State :=
  match s.inbox with
  | .present d chain :: rest =>
    match presented s.responses d chain with
    | some d' => accept d' { s with inbox := rest }
    | none => s
  | .write a b :: rest => hostWrite a b { s with inbox := rest }
  | .reset :: _ => resetTurn s
  | .take :: _ => s
  | .await :: _ => s
  | [] => s

/-- One step while a command is in flight and the host does not wait for its response: a write that races with the
command (20_memory.md R49), or reset (70_reset_and_hazards.md R193). The command is still in flight after a write. -/
def flightTurn (s : State) : State :=
  match s.inbox with
  | .write a b :: rest => racingWrite a b { s with inbox := rest }
  | .reset :: _ => resetTurn s
  | .present _ _ :: _ => s
  | .take :: _ => s
  | .await :: _ => s
  | [] => s

/-- One step while a response waits: the host takes it or does something else first. A write that lands now is too late
for the command (20_memory.md R52 (a), (c)). A host with a descriptor ready waits, and nothing is dropped
(70_reset_and_hazards.md R193, R195; log entry 12). -/
def doneTurn (r : Response) (s : State) : State :=
  match s.inbox with
  | .take :: rest => takeResponse r { s with inbox := rest }
  | .write a b :: rest => hostWrite a b { s with inbox := rest }
  | .await :: rest => { s with inbox := rest }
  | .reset :: _ => resetTurn s
  | .present _ _ :: _ => s
  | [] => s

/-- The state in which the command with descriptor `d` has been presented and the next step runs it: no write and no
reset of the host comes first. -/
def inFlight (d : Descriptor) (s : State) : State :=
  accept d { s with inbox := s.inbox.dropWhile HostAction.interferes }

end Sys2Proof.Machine
end

