-- ==== Sys2Proof/Machine/Buffer.lean ====
section
/-! DEFINITION. The four buffer commands (43_null_seed_contract.md R158 to R161) over one shared operation. -/

namespace Sys2Proof.Machine

/-- The buffer half of `execute` (43_null_seed_contract.md R150), in the order of 60_exceptions.md R174: a closed gate
gives the sentinel and reads nothing; a launch the spec leaves undefined is refused by name; then the bytes
`[PTR, PTR + LEN)` are read, and one that is not readable ends the command with READ_FAULT; then the core runs (log entries 1, 21). -/
def bufferCommand (core : List Byte → Word32 → Working → Working) (digest : Working → Word64) (seeded : Bool)
    (c : Args) (s : State) : Host.Outcome State Fault Refusal :=
  if gateOpen seeded c then
    match launchRefusal c s with
    | some r => .refused r
    | none =>
      match readBytes s (bufferBase c) (bufferLength c) with
      | .error e => .next (takeAbnormal e s)
      | .ok B =>
        let w := core B (effectiveSeed seeded c) s.work
        .next (respond { status := .ok, digest := digest w } w s)
  else .next (takeSentinel s)

/-- `hashBuf32(ptr, len, valid)` (R158). -/
def execHashBuf32 (c : Args) (s : State) : Host.Outcome State Fault Refusal :=
  bufferCommand runHash32Buf digest32 false c s

/-- `hashBuf32(ptr, len, valid, seed, seedValid)` (R159). -/
def execHashBuf32Seeded (c : Args) (s : State) : Host.Outcome State Fault Refusal :=
  bufferCommand runHash32Buf digest32 true c s

/-- `hashBuf64(ptr, len, valid)` (R160). -/
def execHashBuf64 (c : Args) (s : State) : Host.Outcome State Fault Refusal :=
  bufferCommand runHash64Buf digest64 false c s

/-- `hashBuf64(ptr, len, valid, seed, seedValid)` (R161). -/
def execHashBuf64Seeded (c : Args) (s : State) : Host.Outcome State Fault Refusal :=
  bufferCommand runHash64Buf digest64 true c s

end Sys2Proof.Machine
end

