-- ==== Sys2Proof/Machine/Scalar.lean ====
section
/-! DEFINITION. The four scalar commands (43_null_seed_contract.md R154 to R157) over one shared operation. -/

namespace Sys2Proof.Machine

/-- The scalar half of `execute` (43_null_seed_contract.md R150), in the order of 60_exceptions.md R174: a reserved
VTYPE is illegal before the gate is looked at, a closed gate gives the sentinel, else the core runs on the converted
value (log entry 20). `core` runs on the registers, `digest` reads DIGEST from them. -/
def scalarCommand (core : Word64 → Word32 → Working → Working) (digest : Working → Word64) (seeded : Bool)
    (c : Args) (s : State) : Host.Outcome State Fault Refusal :=
  match c.vtype with
  | .reserved _ => .next (takeAbnormal .illegalDescriptor s)
  | .scalar t =>
    if gateOpen seeded c then
      let w := core (toBits t c.operand) (effectiveSeed seeded c) s.work
      .next (respond { status := .ok, digest := digest w } w s)
    else .next (takeSentinel s)

/-- `hashValue32(value, valid)` (R154). -/
def execHashValue32 (c : Args) (s : State) : Host.Outcome State Fault Refusal :=
  scalarCommand runHash32 digest32 false c s

/-- `hashValue32(value, valid, seed, seedValid)` (R155). -/
def execHashValue32Seeded (c : Args) (s : State) : Host.Outcome State Fault Refusal :=
  scalarCommand runHash32 digest32 true c s

/-- `hashValue64(value, valid)` (R156). -/
def execHashValue64 (c : Args) (s : State) : Host.Outcome State Fault Refusal :=
  scalarCommand runHash64 digest64 false c s

/-- `hashValue64(value, valid, seed, seedValid)` (R157). -/
def execHashValue64Seeded (c : Args) (s : State) : Host.Outcome State Fault Refusal :=
  scalarCommand runHash64 digest64 true c s

end Sys2Proof.Machine
end

