-- ==== Sys2Proof/Machine/Dispatch.lean ====
section
/-! DEFINITION. One arm per command of the opcode map (30_encoding.md R71). -/

namespace Sys2Proof.Machine

def exec (i : Instr) (s : State) : Host.Outcome State Fault Refusal :=
  match i with
  | .hashValue32 c => Sys2Proof.Machine.execHashValue32 c s
  | .hashValue32Seeded c => Sys2Proof.Machine.execHashValue32Seeded c s
  | .hashValue64 c => Sys2Proof.Machine.execHashValue64 c s
  | .hashValue64Seeded c => Sys2Proof.Machine.execHashValue64Seeded c s
  | .hashBuf32 c => Sys2Proof.Machine.execHashBuf32 c s
  | .hashBuf32Seeded c => Sys2Proof.Machine.execHashBuf32Seeded c s
  | .hashBuf64 c => Sys2Proof.Machine.execHashBuf64 c s
  | .hashBuf64Seeded c => Sys2Proof.Machine.execHashBuf64Seeded c s

end Sys2Proof.Machine
end

