-- ==== Sys2Proof/Machine/Step.lean ====
section
/-! DEFINITION. One step of the machine (10_state.md R25): in Idle and in Done the host's next action; in Busy what the
host still does, then the command in flight, decoded and executed. The operations it calls stand in Machine/Ops.lean. -/

namespace Sys2Proof.Machine

/-- One step. An illegal descriptor gives its abnormal response (60_exceptions.md R170). -/
def step (s : State) : Host.Outcome State Fault Refusal :=
  match s.control with
  | .idle => .next (idleTurn s)
  | .done r => .next (doneTurn r s)
  | .busy d =>
    if hostWaits s then
      match decode d with
      | .ok i => exec i s
      | .error _ => .next (takeAbnormal .illegalDescriptor s)
    else .next (flightTurn s)

/-- `s` with the command whose descriptor has the low `nbits` bits of `w`, all others zero, in flight: the very next step
runs it (log entry 2). -/
def State.withFetchWord (s : State) (nbits w : Nat) : State :=
  inFlight (BitVec.ofNat 192 (w % 2 ^ nbits)) s

end Sys2Proof.Machine
end

