-- ==== Sys2Proof/Machine/Assembler.lean ====
section
/-! DEFINITION. Command lines (30_encoding.md R78), their pseudo-instructions and aliases (R79), and programs
(70_reset_and_hazards.md R192), as data: the characters of a line are not parsed (log entry 16). -/

namespace Sys2Proof.Machine

/-- The `value` argument of a line (R78): a decimal integer, `true` or `false`, or `0x...` for the raw bits. A decimal
floating literal stands here by its raw bits (log entry 16). -/
inductive AsmValue where
  | integer (v : Int)
  | boolean (b : Bool)
  | raw (bits : Word64)
deriving DecidableEq, Repr

/-- The `seed` argument of a line (R78): an integer literal, or `$n`, the DIGEST of the response to line `n`. -/
inductive AsmSeed where
  | literal (v : Int)
  | digestOf (n : Nat)
deriving DecidableEq, Repr

/-- A command line (R78): the entry point's name, then its arguments in the document's order. The last two, `seed` and
`seedValid`, are there or not, and their number selects the seeded form. -/
inductive AsmLine where
  | hashValue32 (t : ScalarType) (value : AsmValue) (valid : Bool) (seed : Option (AsmSeed × Bool))
  | hashValue64 (t : ScalarType) (value : AsmValue) (valid : Bool) (seed : Option (AsmSeed × Bool))
  | hashBuf32 (ptr : Word64) (len : Word32) (valid : Bool) (seed : Option (AsmSeed × Bool))
  | hashBuf64 (ptr : Word64) (len : Word32) (valid : Bool) (seed : Option (AsmSeed × Bool))
deriving DecidableEq, Repr

/-- The bits of the value argument: an integer in two's complement, of which the type uses the low bits (R63). -/
def asmValueBits : AsmValue → Word64
  | .integer v => BitVec.ofInt 64 v
  | .boolean b => if b then 1 else 0
  | .raw bits => bits

/-- The bits of the seed argument; a seed still to be filled in, or not mentioned, is assembled as 0. -/
def asmSeedBits : Option (AsmSeed × Bool) → Word64
  | some (.literal v, _) => BitVec.ofInt 64 v
  | some (.digestOf _, _) => 0
  | none => 0

/-- The line whose DIGEST the seed argument names. -/
def asmSeedSource : Option (AsmSeed × Bool) → Option Nat
  | some (.digestOf n, _) => some n
  | some (.literal _, _) => none
  | none => none

/-- The `seedValid` argument; 0 when not mentioned. -/
def asmSeedValid : Option (AsmSeed × Bool) → Bool
  | some (_, v) => v
  | none => false

/-- The fields of a scalar line; LEN, not mentioned, is 0. -/
def asmScalarArgs (t : ScalarType) (value : AsmValue) (valid : Bool) (seed : Option (AsmSeed × Bool)) : Args :=
  { vtype := .scalar t, valid := valid, seedValid := asmSeedValid seed, len := 0, operand := asmValueBits value,
    seed := asmSeedBits seed }

/-- The fields of a buffer line; VTYPE, not mentioned, is 0. -/
def asmBufferArgs (ptr : Word64) (len : Word32) (valid : Bool) (seed : Option (AsmSeed × Bool)) : Args :=
  { vtype := .scalar .float64, valid := valid, seedValid := asmSeedValid seed, len := len, operand := ptr,
    seed := asmSeedBits seed }

/-- The command a line stands for. -/
def asmInstr : AsmLine → Instr
  | .hashValue32 t value valid seed => commandOf false false seed.isSome (asmScalarArgs t value valid seed)
  | .hashValue64 t value valid seed => commandOf false true seed.isSome (asmScalarArgs t value valid seed)
  | .hashBuf32 ptr len valid seed => commandOf true false seed.isSome (asmBufferArgs ptr len valid seed)
  | .hashBuf64 ptr len valid seed => commandOf true true seed.isSome (asmBufferArgs ptr len valid seed)

/-- The line whose response fills the SEED field, if the line has `$n`. -/
def asmChain : AsmLine → Option Nat
  | .hashValue32 _ _ _ seed => asmSeedSource seed
  | .hashValue64 _ _ _ seed => asmSeedSource seed
  | .hashBuf32 _ _ _ seed => asmSeedSource seed
  | .hashBuf64 _ _ _ seed => asmSeedSource seed

/-- What the host does for one line: present its descriptor, then take the response (R192). -/
def asmActions (l : AsmLine) : List HostAction :=
  [.present (encode (asmInstr l)) (asmChain l), .take]

/-- What the host does for a program: its lines in list order (70_reset_and_hazards.md R192). -/
def asmProgram (lines : List AsmLine) : List HostAction :=
  lines.flatMap asmActions

/-! ## Pseudo-instructions and aliases (30_encoding.md R79) -/

/-- `hash32 bits, seed`. -/
def pseudoHash32 (bits : Word64) (seed : AsmSeed) : AsmLine :=
  .hashValue32 .float64 (.raw bits) true (some (seed, true))

/-- `hash64 bits, seed`. -/
def pseudoHash64 (bits : Word64) (seed : AsmSeed) : AsmLine :=
  .hashValue64 .float64 (.raw bits) true (some (seed, true))

/-- `hash32_buf ptr, len, seed`. -/
def pseudoHash32Buf (ptr : Word64) (len : Word32) (seed : AsmSeed) : AsmLine :=
  .hashBuf32 ptr len true (some (seed, true))

/-- `hash64_buf ptr, len, seed`. -/
def pseudoHash64Buf (ptr : Word64) (len : Word32) (seed : AsmSeed) : AsmLine :=
  .hashBuf64 ptr len true (some (seed, true))

/-- `hash32AsDouble.<t> ...`, another spelling of `hashValue32.<t> ...`. -/
def aliasHash32AsDouble (t : ScalarType) (value : AsmValue) (valid : Bool) (seed : Option (AsmSeed × Bool)) : AsmLine :=
  .hashValue32 t value valid seed

/-- `hash.<t> ...`, another spelling of `hashValue32.<t> ...`. -/
def aliasHash (t : ScalarType) (value : AsmValue) (valid : Bool) (seed : Option (AsmSeed × Bool)) : AsmLine :=
  .hashValue32 t value valid seed

end Sys2Proof.Machine
end

