-- ==== Sys2Proof/Safety.lean ====
section
/-! DEFINITION. The terms in which statements speak of commands, responses and runs: the host's duty, what a host can see
of a response, good runs, the invariant of the machine. -/

namespace Sys2Proof

/-- The command takes a seed (30_encoding.md R62, `OP[0]`). -/
def Instr.seeded : Instr → Bool
  | .hashValue32 _ => false
  | .hashValue32Seeded _ => true
  | .hashValue64 _ => false
  | .hashValue64Seeded _ => true
  | .hashBuf32 _ => false
  | .hashBuf32Seeded _ => true
  | .hashBuf64 _ => false
  | .hashBuf64Seeded _ => true

/-- The command gives a 64-bit digest (30_encoding.md R62, `OP[1]`). -/
def Instr.wide : Instr → Bool
  | .hashValue32 _ => false
  | .hashValue32Seeded _ => false
  | .hashValue64 _ => true
  | .hashValue64Seeded _ => true
  | .hashBuf32 _ => false
  | .hashBuf32Seeded _ => false
  | .hashBuf64 _ => true
  | .hashBuf64Seeded _ => true

/-- The command hashes a buffer (30_encoding.md R62, `OP[2]`). -/
def Instr.buffer : Instr → Bool
  | .hashValue32 _ => false
  | .hashValue32Seeded _ => false
  | .hashValue64 _ => false
  | .hashValue64Seeded _ => false
  | .hashBuf32 _ => true
  | .hashBuf32Seeded _ => true
  | .hashBuf64 _ => true
  | .hashBuf64Seeded _ => true

/-- The validity gate of the command is open (43_null_seed_contract.md R150). -/
def Instr.gate (i : Instr) : Bool :=
  Machine.gateOpen i.seeded i.args

/-- The integer a scalar of an integer or boolean type stands for (30_encoding.md R63); none for the two float types. -/
def integerValue (t : ScalarType) (operand : Word64) : Option Int :=
  match t with
  | .float64 => none
  | .float32 => none
  | .int8 => some (operand.extractLsb' 0 8).toInt
  | .int16 => some (operand.extractLsb' 0 16).toInt
  | .int32 => some (operand.extractLsb' 0 32).toInt
  | .int64 => some operand.toInt
  | .uint8 => some (operand.extractLsb' 0 8).toNat
  | .uint16 => some (operand.extractLsb' 0 16).toNat
  | .uint32 => some (operand.extractLsb' 0 32).toNat
  | .uint64 => some operand.toNat
  | .bool => some (operand.extractLsb' 0 1).toNat

/-- How many low bits of OPERAND a scalar type uses (30_encoding.md R63). -/
def ScalarType.width : ScalarType → Nat
  | .float64 => 64
  | .float32 => 32
  | .int8 => 8
  | .int16 => 16
  | .int32 => 32
  | .int64 => 64
  | .uint8 => 8
  | .uint16 => 16
  | .uint32 => 32
  | .uint64 => 64
  | .bool => 1

/-- Two commands agree on every field they use (30_encoding.md R69): the same entry point and VALID; SEED_VALID where a
seed is taken; VTYPE of a scalar; and, with the gate open, the value of a scalar, LEN of a buffer and PTR unless LEN is
0, and `SEED[31:0]` where a seed is taken. -/
def SameUse (i j : Instr) : Prop :=
  i.op = j.op ∧ i.args.valid = j.args.valid ∧
    (i.seeded = true → i.args.seedValid = j.args.seedValid) ∧
    (i.buffer = false → i.args.vtype = j.args.vtype) ∧
    (i.gate = true →
      (i.buffer = false → i.args.operand = j.args.operand) ∧
      (i.buffer = true → i.args.len = j.args.len ∧ (i.args.len ≠ 0 → i.args.operand = j.args.operand)) ∧
      (i.seeded = true → i.args.seed.extractLsb' 0 32 = j.args.seed.extractLsb' 0 32))

/-! The fields of the two floating-point layouts (41_fixed_width.md R112, R114). -/

/-- The biased exponent of a binary64 pattern. -/
def doubleExponent (w : Word64) : Nat := (w.extractLsb' 52 11).toNat

/-- The fraction of a binary64 pattern. -/
def doubleFraction (w : Word64) : Nat := (w.extractLsb' 0 52).toNat

/-- The biased exponent of a binary32 pattern. -/
def singleExponent (w : Word32) : Nat := (w.extractLsb' 23 8).toNat

/-- The fraction of a binary32 pattern. -/
def singleFraction (w : Word32) : Nat := (w.extractLsb' 0 23).toNat

/-- The eight little-endian bytes of a word (41_fixed_width.md R120). -/
def wordBytes (bits : Word64) : List Byte :=
  (List.range 8).map (fun i => bits.extractLsb' (8 * i) 8)

end Sys2Proof

namespace Sys2Proof.Machine

/-- What the host can learn from a response: STATUS, and DIGEST where STATUS is OK (30_encoding.md R75). -/
def Response.seen (r : Response) : Status × Option Word64 :=
  (r.status, if r.status = .ok then some r.digest else none)

/-- How a command ends for the host: with a response, or (a launch the spec leaves undefined) with none. -/
def outcomeSeen : Host.Outcome State Fault Refusal → Option (Status × Option Word64)
  | .next t =>
    match t.control with
    | .done r => some r.seen
    | _ => none
  | _ => none

/-- No write has raced with the command at an address of `[base, base + n)` (20_memory.md R49). -/
def NoRace (s : State) (base n : Nat) : Prop :=
  ∀ a, base ≤ a → a < base + n → racedBytes s a = []

/-- The bytes `B` stand at `base`, `base + 1`, ..., and are readable. -/
def BytesAt (s : State) (base : Nat) (B : List Byte) : Prop :=
  ∀ k (h : k < B.length), s.isReadable (base + k) = true ∧ s.mem.read (base + k) = B[k]

/-- The bytes `B` are what the read port answers at `base`, `base + 1`, ..., racing or not (20_memory.md R42). -/
def PortAnswers (s : State) (base : Nat) (B : List Byte) : Prop :=
  ∀ k (h : k < B.length), portRead s (base + k) = some B[k]

/-- The launch of a buffer command is one the spec defines (60_exceptions.md R173): LEN is not negative (R66), the range
does not pass 2^64 (R50) and no byte of it lies in memory whose reads have side effects (R48). -/
def DefinedLaunch (c : Args) (s : State) : Prop :=
  c.len.msb = false ∧ c.operand.toNat + c.len.toNat ≤ 2 ^ 64 ∧
    ∀ r ∈ s.sideEffecting, ∀ a, c.operand.toNat ≤ a → a < c.operand.toNat + c.len.toNat →
      ¬ (r.base ≤ a ∧ a < r.base + r.size)

/-- The host's duty for a buffer command with the gate open, the buffer holding `B` (70_reset_and_hazards.md R193). -/
def HostDuty (c : Args) (s : State) (B : List Byte) : Prop :=
  DefinedLaunch c s ∧ B.length = c.len.toNat ∧ BytesAt s c.operand.toNat B ∧
    NoRace s c.operand.toNat c.len.toNat

/-- The state after the command in flight has ended with response `r`, the working registers holding `w`: nothing but
the control state, the working registers and the model's counter has changed. -/
def State.ended (s : State) (r : Response) (w : Working) : State :=
  { s with control := .done r, work := w, fresh := s.fresh + 1 }

/-- The run has ended (70_reset_and_hazards.md R192): the block is Idle and the host has nothing more to do. -/
def State.RunEnded (s : State) : Prop :=
  s.control = .idle ∧ s.inbox = []

/-- The run is good so far (70_reset_and_hazards.md R192): every response is OK, and no reset cut a command short. -/
def State.GoodRun (s : State) : Prop :=
  s.cut = false ∧ ∀ r ∈ s.responses, r.status = .ok

/-- The host writes or waits for the response, and does nothing else. -/
def HostAction.passive : HostAction → Bool
  | .write _ _ => true
  | .await => true
  | .present _ _ => false
  | .take => false
  | .reset => false

/-- Memory after the writes of a list of host actions, in order. -/
def afterWrites : List HostAction → Memory → Memory
  | [], m => m
  | .write a b :: rest, m => afterWrites rest (m.write a.toNat b)
  | .await :: rest, m => afterWrites rest m
  | .present _ _ :: rest, m => afterWrites rest m
  | .take :: rest, m => afterWrites rest m
  | .reset :: rest, m => afterWrites rest m

/-- The invariant of the machine: memory is in canonical form within the address space (20_memory.md R40), and the idle
block holds no data and races with nothing (60_exceptions.md R185; log entries 5, 9). -/
def State.Inv (s : State) : Prop :=
  Memory.wf s.mem ∧ (s.control = .idle → s.work = Working.reset ∧ s.overwritten = [])

end Sys2Proof.Machine
end

