-- ==== Sys2Proof/Certificates/Slice0/Obligations.lean ====
section
/-! DEFINITION. The statements about the model, from the numbered rules of spec/. `s.ended r w` is the state after the
command in flight has ended with response `r`: nothing but the control state, the working registers and the model's own
counter differs from `s`, so a conclusion of that form is also the frame. -/

open Sys2Proof Sys2Proof.Machine

/-! ## Decoding and encoding -/

/-- The command in flight is decoded and executed, with nothing around it, once the host waits for its response: while
the host still writes or asserts reset, that comes first (10_state.md R25, 43_null_seed_contract.md R150; log entries 2,
5, 11). -/
def Obligations.StepRunsTheDecodedCommand : Prop :=
  ∀ (s : State) (d : Descriptor) (i : Instr), s.control = .busy d → hostWaits s = true → decode d = .ok i →
    step s = exec i s

/-- Eight descriptors the spec prints as worked examples of R154 to R161 decode to the commands they stand for. -/
def Obligations.DecodesThePrintedDescriptors : Prop :=
  decode 0x000000000000000000000000000000050000000000000140#192 =
      .ok (.hashValue32 ⟨.scalar .int32, true, false, 0, 5, 0⟩) ∧
    decode 0x000000000000303900000000000000050000000000000341#192 =
      .ok (.hashValue32Seeded ⟨.scalar .int32, true, true, 0, 5, 12345⟩) ∧
    decode 0x000000000000000040140000000000000000000000000102#192 =
      .ok (.hashValue64 ⟨.scalar .float64, true, false, 0, 0x4014000000000000, 0⟩) ∧
    decode 0x000000000000303940140000000000000000000000000303#192 =
      .ok (.hashValue64Seeded ⟨.scalar .float64, true, true, 0, 0x4014000000000000, 12345⟩) ∧
    decode 0x000000000000000000000000000010000000000500000104#192 =
      .ok (.hashBuf32 ⟨.scalar .float64, true, false, 5, 0x1000, 0⟩) ∧
    decode 0x000000000000303900000000000010000000000500000305#192 =
      .ok (.hashBuf32Seeded ⟨.scalar .float64, true, true, 5, 0x1000, 12345⟩) ∧
    decode 0x000000000000000000000000000010000000000500000106#192 =
      .ok (.hashBuf64 ⟨.scalar .float64, true, false, 5, 0x1000, 0⟩) ∧
    decode 0x000000000000303900000000000010000000000500000307#192 =
      .ok (.hashBuf64Seeded ⟨.scalar .float64, true, true, 5, 0x1000, 12345⟩)

/-- Decoding the descriptor of a command with a legal VTYPE gives the command back, with every field at every value. -/
def Obligations.DecodeInvertsEncode : Prop :=
  ∀ i : Instr, i.wf = true → decode (encode i) = .ok i

/-- A descriptor that decodes is the descriptor of a command with a legal VTYPE, bit for bit. -/
def Obligations.EncodeInvertsDecode : Prop :=
  ∀ (d : Descriptor) (i : Instr), decode d = .ok i → i.wf = true ∧ encode i = d

/-- 30_encoding.md R72: the illegal descriptors are exactly those with a bit of `CTRL[31:10]` set, with `CTRL[3]` set, or
with BUF 0 and VTYPE 11 to 15; no other bit, VALID among them, matters. -/
def Obligations.IllegalDescriptorsAreExactlyThese : Prop :=
  ∀ d : Descriptor, (∃ e, decode d = .error e) ↔
    ((∃ j, 10 ≤ j ∧ j < 32 ∧ d.getLsbD j = true) ∨ d.getLsbD 3 = true ∨
      (d.getLsbD 2 = false ∧ 11 ≤ (d.extractLsb' 4 4).toNat))

/-- 30_encoding.md R71: the mask `0xFFFFFC0F` and the match of each OP over CTRL, with VTYPE at most 10 for the four
scalar commands, select the command of that OP. -/
def Obligations.OpcodeMapByMaskAndMatch : Prop :=
  ∀ (d : Descriptor) (n : Nat), n < 8 →
    ((d.extractLsb' 0 32 &&& 0xFFFFFC0F#32 = BitVec.ofNat 32 n ∧ (n < 4 → (d.extractLsb' 4 4).toNat ≤ 10)) ↔
      ∃ i, decode d = .ok i ∧ i.op = BitVec.ofNat 4 n)

/-- 30_encoding.md R62: bit 0 of OP selects the seeded form, bit 1 the 64-bit digest, bit 2 the buffer, and bit 3 is 0. -/
def Obligations.OpBitsSelectTheThreeAxes : Prop :=
  ∀ (d : Descriptor) (i : Instr), decode d = .ok i →
    i.seeded = d.getLsbD 0 ∧ i.wide = d.getLsbD 1 ∧ i.buffer = d.getLsbD 2 ∧ d.getLsbD 3 = false

/-! ## Primitives -/

/-- 40_primitives.md R92, R93: the two rotations are the given formula, and bit `i` becomes bit `(i + r) mod W`. -/
def Obligations.RotationsMoveEachBit : Prop :=
  (∀ (x : Word32) (r : Nat), 0 < r → r < 32 →
      rotl32 x r = (x <<< r ||| x >>> (32 - r)) ∧
      ∀ i, i < 32 → (rotl32 x r).getLsbD ((i + r) % 32) = x.getLsbD i) ∧
    (∀ (x : Word64) (r : Nat), 0 < r → r < 64 →
      rotl64 x r = (x <<< r ||| x >>> (64 - r)) ∧
      ∀ i, i < 64 → (rotl64 x r).getLsbD ((i + r) % 64) = x.getLsbD i)

/-- 40_primitives.md R94, R95, R99, R100, R101, R102: the two finalizers, and the mixes, the block and the finalization of
the 64-bit path, each step of their listings; the update of `h2` and the second sum use the NEW first half. -/
def Obligations.PrimitivesFollowTheirListings : Prop :=
  (∀ a b c d e h : Word32, a = h ^^^ h >>> 16 → b = a * 0x85ebca6b → c = b ^^^ b >>> 13 → d = c * 0xc2b2ae35 →
      e = d ^^^ d >>> 16 → fmix32 h = e) ∧
    (∀ a b c d e x : Word64, a = x ^^^ x >>> 33 → b = a * 0xff51afd7ed558ccd → c = b ^^^ b >>> 33 →
      d = c * 0xc4ceb9fe1a85ec53 → e = d ^^^ d >>> 33 → fmix64 x = e) ∧
    (∀ k : Word64, k1mix k = rotl64 (k * 0x87c37b91114253d5) 31 * 0x4cf5ad432745937f) ∧
    (∀ k : Word64, k2mix k = rotl64 (k * 0x4cf5ad432745937f) 33 * 0x87c37b91114253d5) ∧
    (∀ h1 h2 k1 k2 a b : Word64, a = (rotl64 (h1 ^^^ k1mix k1) 27 + h2) * 5 + 0x52dce729 →
      b = (rotl64 (h2 ^^^ k2mix k2) 31 + a) * 5 + 0x38495ab5 → block64 h1 h2 k1 k2 = (a, b)) ∧
    (∀ h1 h2 n a b c d : Word64, a = h1 ^^^ n → b = h2 ^^^ n → c = a + b → d = b + c →
      final64 h1 h2 n = fmix64 c + fmix64 d)

/-- The mix, the round and the finalization of the 32-bit path, whose rotations, addend and length step the spec marks as
general knowledge (93_implementation_defined.md K1 to K4; log entry 17). -/
def Obligations.Mixes32FollowTheirListings : Prop :=
  (∀ k : Word32, kmix32 k = rotl32 (k * 0xcc9e2d51) 15 * 0x1b873593) ∧
    (∀ h k : Word32, round32 h k = rotl32 (h ^^^ kmix32 k) 13 * 5 + 0xe6546b64) ∧
    (∀ h n : Word32, final32 h n = fmix32 (h ^^^ n))

/-- 0 is a fixed point of every mix, absorbing a zero tail word changes nothing, and the empty buffer with seed 0 hashes
to 0 (derived in the spec itself from R94, R95, R97, R99, R100, R102, R103). -/
def Obligations.ZeroIsAFixedPointOfEveryMix : Prop :=
  kmix32 0 = 0 ∧ k1mix 0 = 0 ∧ k2mix 0 = 0 ∧ fmix32 0 = 0 ∧ fmix64 0 = 0 ∧
    (∀ h : Word32, h ^^^ kmix32 0 = h) ∧ coreHash32Buf [] 0 = 0 ∧ coreHash64Buf [] 0 = 0

/-- `le` of a byte sequence that fits is the sum of its bytes, byte `i` at shift `8 i`, each zero-extended (00_scope.md
R10, 42_buffer.md R130), and byte `i` stands in bits `8 i` to `8 i + 7` (20_memory.md R44). -/
def Obligations.WordsAreLittleEndian : Prop :=
  ∀ (w : Nat) (B : List Byte), 8 * B.length ≤ w →
    (leWord w B).toNat = (B.zipIdx.map (fun p => p.1.toNat * 2 ^ (8 * p.2))).sum ∧
      ∀ i (h : i < B.length), (leWord w B).extractLsb' (8 * i) 8 = B[i]

/-! ## Operand conversion -/

/-- 41_fixed_width.md R111: a FLOAT64 operand is the word, unchanged. -/
def Obligations.Float64OperandIsTheWord : Prop :=
  ∀ operand : Word64, toBits .float64 operand = operand

/-- Every scalar goes through the conversion of its row (41_fixed_width.md section 1, `to_bits`): FLOAT64 none, FLOAT32
`f32_to_f64` of the low 32 bits, an integer `v` of any width `int_to_f64(v < 0, |v|)`. A boolean is covered as the integer
0 or 1 it stands for, which rests on K8 and K5 (log entry 17). -/
def Obligations.ScalarsGoThroughTheirConversions : Prop :=
  (∀ a : Word64, toBits .float64 a = a) ∧ (∀ a : Word64, toBits .float32 a = f32ToF64 (a.extractLsb' 0 32)) ∧
    ∀ (t : ScalarType) (a : Word64) (v : Int), integerValue t a = some v →
      toBits t a = intToF64 (decide (v < 0)) v.natAbs

/-- A boolean is the word of 1.0 or of 0.0 by bit 0 of OPERAND alone (41_fixed_width.md section 1; the spec marks the
representation as general knowledge, K8, made its decision D19). -/
def Obligations.BooleanIsOneOrZero : Prop :=
  ∀ operand : Word64, toBits .bool operand = if operand.getLsbD 0 = true then 0x3ff0000000000000 else 0

/-- An integer of magnitude below 2^53 converts exactly: sign, and significand times power of two equal to the magnitude;
0 gives +0.0 (41_fixed_width.md section 1; the binary64 layout is K5). -/
def Obligations.SmallIntegersConvertExactly : Prop :=
  (∀ neg, intToF64 neg 0 = 0) ∧
    ∀ (neg : Bool) (m : Nat), 0 < m → m < 2 ^ 53 →
      (intToF64 neg m).msb = neg ∧ 1023 ≤ doubleExponent (intToF64 neg m) ∧
        doubleExponent (intToF64 neg m) ≤ 1075 ∧
        2 ^ 52 + doubleFraction (intToF64 neg m) = m * 2 ^ (1075 - doubleExponent (intToF64 neg m))

/-- An integer of magnitude 2^53 or more converts to the double nearest to it: no `q * 2^k` with `q < 2^53` is nearer,
and one equally near that differs leaves the even significand chosen (41_fixed_width.md section 1; roundTiesToEven is the
spec's decision D18, K6). -/
def Obligations.LargeIntegersRoundToNearestEven : Prop :=
  ∀ (neg : Bool) (m : Nat), 2 ^ 53 ≤ m → m < 2 ^ 64 →
    let w := intToF64 neg m
    let v : Int := (2 ^ 52 + doubleFraction w) * 2 ^ (doubleExponent w - 1075)
    w.msb = neg ∧ 1075 < doubleExponent w ∧ doubleExponent w < 2047 ∧
      ∀ q k : Nat, q < 2 ^ 53 →
        |v - m| ≤ |(q : Int) * 2 ^ k - m| ∧
          (|(q : Int) * 2 ^ k - m| = |v - m| → (q : Int) * 2 ^ k ≠ v → doubleFraction w % 2 = 0)

/-- A finite binary32 number widens to the double of the same sign and value (for a nonzero one, as an equation of natural
numbers scaled by 2^1225), and zeros and infinities keep their sign (41_fixed_width.md section 1; the layouts are K5). -/
def Obligations.Float32WidensExactly : Prop :=
  ∀ w : Word32,
    (singleExponent w = 0 → singleFraction w = 0 →
      f32ToF64 w = if w.msb = true then 0x8000000000000000 else 0) ∧
    (singleExponent w = 255 → singleFraction w = 0 →
      f32ToF64 w = if w.msb = true then 0xfff0000000000000 else 0x7ff0000000000000) ∧
    (singleExponent w < 255 → ¬ (singleExponent w = 0 ∧ singleFraction w = 0) →
      (f32ToF64 w).msb = w.msb ∧ 0 < doubleExponent (f32ToF64 w) ∧ doubleExponent (f32ToF64 w) < 2047 ∧
        (2 ^ 52 + doubleFraction (f32ToF64 w)) * 2 ^ doubleExponent (f32ToF64 w) * 2 ^ 150 =
          (if singleExponent w = 0 then singleFraction w else 2 ^ 23 + singleFraction w) *
            2 ^ max (singleExponent w) 1 * 2 ^ 1075)

/-- 41_fixed_width.md R115: a binary32 NaN widens to a binary64 NaN, bits `[62:52]` all 1 and bits `[51:0]` not all 0,
whatever the free value is; a FLOAT64 NaN is left as it is. -/
def Obligations.NaNsWidenToNaNs : Prop :=
  (∀ w : Word32, singleExponent w = 255 → singleFraction w ≠ 0 →
      f32ToF64 w = widenNaN w ∧ doubleExponent (f32ToF64 w) = 2047 ∧ doubleFraction (f32ToF64 w) ≠ 0) ∧
    ∀ w : Word64, doubleExponent w = 2047 → doubleFraction w ≠ 0 → toBits .float64 w = w

/-- Operands of integer or boolean types with the same numeric value have the same word, and so the same digests; 5 as
INT8, INT32 and FLOAT64 among them (41_fixed_width.md R117, which the spec derives from R110, R111, R112 and R114). For a
boolean it rests on true being 1.0 and false 0.0 (R116, K8), for the pattern of 5.0 on the layout of binary64 (K5), both
general knowledge: log entry 17. -/
def Obligations.EqualIntegersHaveEqualWords : Prop :=
  (∀ (t u : ScalarType) (a b : Word64) (v : Int), integerValue t a = some v → integerValue u b = some v →
      toBits t a = toBits u b) ∧
    toBits .int8 5 = toBits .int32 5 ∧ toBits .int32 5 = toBits .float64 0x4014000000000000

/-- The bits of OPERAND above those a type uses are ignored (30_encoding.md section 1, the table of VTYPE). -/
def Obligations.UpperOperandBitsAreIgnored : Prop :=
  ∀ (t : ScalarType) (a b : Word64), a.extractLsb' 0 t.width = b.extractLsb' 0 t.width → toBits t a = toBits t b

/-! ## The cores -/

/-- 41_fixed_width.md R118: chunk 0, then chunk 1, then the finalization with length 8. -/
def Obligations.Hash32OfAWord : Prop :=
  ∀ (bits : Word64) (seed : Word32),
    coreHash32 bits seed =
      final32 (round32 (round32 seed (bits.extractLsb' 0 32)) (bits.extractLsb' 32 32)) 8

/-- 41_fixed_width.md R119: both halves start from the sign-extended seed, the one word is mixed into the first, and the
finalization has length 8. -/
def Obligations.Hash64OfAWord : Prop :=
  ∀ (bits : Word64) (seed : Word32),
    coreHash64 bits seed = final64 (seed.signExtend 64 ^^^ k1mix bits) (seed.signExtend 64) 8

/-- The full 4-byte blocks in ascending order, the tail word by its mix alone, byte `j` at shift `8 j`, the whole length
(42_buffer.md section 2). What becomes of the tail word is what R132 and R133 mark as general knowledge, K9, and the
round and the length step are K1 to K4: log entry 17. -/
def Obligations.Hash32OfABuffer : Prop :=
  ∀ (B : List Byte) (seed h : Word32),
    h = (List.range (B.length / 4)).foldl (fun h i => round32 h (leWord 32 ((B.drop (4 * i)).take 4))) seed →
    coreHash32Buf B seed =
      final32
        (if 0 < B.length % 4 then h ^^^ kmix32 (leWord 32 (B.drop (4 * (B.length / 4)))) else h)
        (BitVec.ofNat 32 B.length)

/-- 42_buffer.md R138: the full 16-byte blocks in ascending order, the second tail word into `h2` for 9 bytes or more, the
first into `h1` for 1 byte or more, the whole length. -/
def Obligations.Hash64OfABuffer : Prop :=
  ∀ (B : List Byte) (seed : Word32) (h : Word64 × Word64) (t : Nat),
    t = 16 * (B.length / 16) →
    h = (List.range (B.length / 16)).foldl
      (fun h i => block64 h.1 h.2 (leWord 64 ((B.drop (16 * i)).take 8)) (leWord 64 ((B.drop (16 * i + 8)).take 8)))
      (seed.signExtend 64, seed.signExtend 64) →
    coreHash64Buf B seed =
      final64
        (if 1 ≤ B.length % 16 then h.1 ^^^ k1mix (leWord 64 ((B.drop t).take (min (B.length % 16) 8))) else h.1)
        (if 9 ≤ B.length % 16 then h.2 ^^^ k2mix (leWord 64 (B.drop (t + 8))) else h.2)
        (BitVec.ofNat 64 B.length)

/-- A tail word of up to eight bytes is what the published tail switch accumulates, from the last byte down, byte `j`
xored in at shift `8 j` (42_buffer.md section 3; the listing is K10). -/
def Obligations.TailWordIsTheFallthroughListing : Prop :=
  ∀ T : List Byte, T.length ≤ 8 →
    leWord 64 T = T.zipIdx.reverse.foldl (fun (k : Word64) (p : Byte × Nat) => k ^^^ (p.1.setWidth 64 <<< (8 * p.2))) 0

/-- The fixed-width cores agree with the buffer cores on the word's eight little-endian bytes (41_fixed_width.md section
2, derived in the spec itself from R118, R119, R134, R138). -/
def Obligations.FixedWidthCoresAgreeWithBufferCores : Prop :=
  ∀ (bits : Word64) (seed : Word32),
    coreHash32 bits seed = coreHash32Buf (wordBytes bits) seed ∧ coreHash64 bits seed = coreHash64Buf (wordBytes bits) seed

/-- The digests of the empty buffer (42_buffer.md section 4, derived in the spec itself from R134, R138, R104). -/
def Obligations.EmptyBufferDigests : Prop :=
  ∀ seed : Word32,
    coreHash32Buf [] seed = fmix32 seed ∧
      coreHash64Buf [] seed = final64 (seed.signExtend 64) (seed.signExtend 64) 0

/-- Each core writes the working registers before it reads them, so what they held cannot be seen (10_state.md section
5). -/
def Obligations.WorkingRegistersAreWrittenBeforeRead : Prop :=
  ∀ (i : Instr) (s : State) (w : Working), outcomeSeen (exec i { s with work := w }) = outcomeSeen (exec i s)

/-! ## The eight commands -/

/-- 43_null_seed_contract.md R154: the digest of the converted value with seed 0 if VALID, else 0; always STATUS OK, and
nothing else changes. -/
def Obligations.HashValue32Answers : Prop :=
  ∀ (t : ScalarType) (c : Args) (s : State), c.vtype = .scalar t →
    ∃ w, exec (.hashValue32 c) s =
      .next (s.ended ⟨.ok, if c.valid = true then (coreHash32 (toBits t c.operand) 0).signExtend 64 else 0⟩ w)

/-- 43_null_seed_contract.md R155: with the seed `SEED[31:0]` if VALID and SEED_VALID, else 0. -/
def Obligations.HashValue32SeededAnswers : Prop :=
  ∀ (t : ScalarType) (c : Args) (s : State), c.vtype = .scalar t →
    ∃ w, exec (.hashValue32Seeded c) s =
      .next (s.ended ⟨.ok, if c.valid = true ∧ c.seedValid = true
        then (coreHash32 (toBits t c.operand) (c.seed.extractLsb' 0 32)).signExtend 64 else 0⟩ w)

/-- 43_null_seed_contract.md R156. -/
def Obligations.HashValue64Answers : Prop :=
  ∀ (t : ScalarType) (c : Args) (s : State), c.vtype = .scalar t →
    ∃ w, exec (.hashValue64 c) s =
      .next (s.ended ⟨.ok, if c.valid = true then coreHash64 (toBits t c.operand) 0 else 0⟩ w)

/-- 43_null_seed_contract.md R157. -/
def Obligations.HashValue64SeededAnswers : Prop :=
  ∀ (t : ScalarType) (c : Args) (s : State), c.vtype = .scalar t →
    ∃ w, exec (.hashValue64Seeded c) s =
      .next (s.ended ⟨.ok, if c.valid = true ∧ c.seedValid = true
        then coreHash64 (toBits t c.operand) (c.seed.extractLsb' 0 32) else 0⟩ w)

/-- 43_null_seed_contract.md R158: the sentinel without VALID; with it and the host's duty met, the digest of the buffer
with seed 0; with it and whatever bytes the port answers, racing or not, the digest of those bytes (20_memory.md section
1); with an unreadable byte in the range and no write racing, READ_FAULT. Nothing else changes but the working
registers, of which nothing is said. -/
def Obligations.HashBuf32Answers : Prop :=
  ∀ (c : Args) (s : State),
    (c.valid = false → ∃ w, exec (.hashBuf32 c) s = .next (s.ended ⟨.ok, 0⟩ w)) ∧
    (∀ B, c.valid = true → HostDuty c s B →
      ∃ w, exec (.hashBuf32 c) s = .next (s.ended ⟨.ok, (coreHash32Buf B 0).signExtend 64⟩ w)) ∧
    (∀ B, c.valid = true → DefinedLaunch c s → B.length = c.len.toNat →
      PortAnswers s c.operand.toNat B →
      ∃ w, exec (.hashBuf32 c) s =
        .next (s.ended ⟨.ok, (coreHash32Buf B 0).signExtend 64⟩ w)) ∧
    (∀ a, c.valid = true → DefinedLaunch c s →
      NoRace s c.operand.toNat c.len.toNat →
      c.operand.toNat ≤ a → a < c.operand.toNat + c.len.toNat → s.isReadable a = false →
      ∃ g w, exec (.hashBuf32 c) s = .next (s.ended ⟨.readFault, g⟩ w))

/-- 43_null_seed_contract.md R159: as R158 with the seed `SEED[31:0]` and the gate VALID and SEED_VALID. -/
def Obligations.HashBuf32SeededAnswers : Prop :=
  ∀ (c : Args) (s : State),
    (¬ (c.valid = true ∧ c.seedValid = true) →
      ∃ w, exec (.hashBuf32Seeded c) s = .next (s.ended ⟨.ok, 0⟩ w)) ∧
    (∀ B, c.valid = true → c.seedValid = true → HostDuty c s B →
      ∃ w, exec (.hashBuf32Seeded c) s =
        .next (s.ended ⟨.ok, (coreHash32Buf B (c.seed.extractLsb' 0 32)).signExtend 64⟩ w)) ∧
    (∀ B, c.valid = true → c.seedValid = true → DefinedLaunch c s → B.length = c.len.toNat →
      PortAnswers s c.operand.toNat B →
      ∃ w, exec (.hashBuf32Seeded c) s =
        .next (s.ended ⟨.ok, (coreHash32Buf B (c.seed.extractLsb' 0 32)).signExtend 64⟩ w)) ∧
    (∀ a, c.valid = true → c.seedValid = true → DefinedLaunch c s →
      NoRace s c.operand.toNat c.len.toNat →
      c.operand.toNat ≤ a → a < c.operand.toNat + c.len.toNat → s.isReadable a = false →
      ∃ g w, exec (.hashBuf32Seeded c) s = .next (s.ended ⟨.readFault, g⟩ w))

/-- 43_null_seed_contract.md R160. -/
def Obligations.HashBuf64Answers : Prop :=
  ∀ (c : Args) (s : State),
    (c.valid = false → ∃ w, exec (.hashBuf64 c) s = .next (s.ended ⟨.ok, 0⟩ w)) ∧
    (∀ B, c.valid = true → HostDuty c s B →
      ∃ w, exec (.hashBuf64 c) s = .next (s.ended ⟨.ok, coreHash64Buf B 0⟩ w)) ∧
    (∀ B, c.valid = true → DefinedLaunch c s → B.length = c.len.toNat →
      PortAnswers s c.operand.toNat B →
      ∃ w, exec (.hashBuf64 c) s =
        .next (s.ended ⟨.ok, coreHash64Buf B 0⟩ w)) ∧
    (∀ a, c.valid = true → DefinedLaunch c s →
      NoRace s c.operand.toNat c.len.toNat →
      c.operand.toNat ≤ a → a < c.operand.toNat + c.len.toNat → s.isReadable a = false →
      ∃ g w, exec (.hashBuf64 c) s = .next (s.ended ⟨.readFault, g⟩ w))

/-- 43_null_seed_contract.md R161. -/
def Obligations.HashBuf64SeededAnswers : Prop :=
  ∀ (c : Args) (s : State),
    (¬ (c.valid = true ∧ c.seedValid = true) →
      ∃ w, exec (.hashBuf64Seeded c) s = .next (s.ended ⟨.ok, 0⟩ w)) ∧
    (∀ B, c.valid = true → c.seedValid = true → HostDuty c s B →
      ∃ w, exec (.hashBuf64Seeded c) s =
        .next (s.ended ⟨.ok, coreHash64Buf B (c.seed.extractLsb' 0 32)⟩ w)) ∧
    (∀ B, c.valid = true → c.seedValid = true → DefinedLaunch c s → B.length = c.len.toNat →
      PortAnswers s c.operand.toNat B →
      ∃ w, exec (.hashBuf64Seeded c) s =
        .next (s.ended ⟨.ok, coreHash64Buf B (c.seed.extractLsb' 0 32)⟩ w)) ∧
    (∀ a, c.valid = true → c.seedValid = true → DefinedLaunch c s →
      NoRace s c.operand.toNat c.len.toNat →
      c.operand.toNat ≤ a → a < c.operand.toNat + c.len.toNat → s.isReadable a = false →
      ∃ g w, exec (.hashBuf64Seeded c) s = .next (s.ended ⟨.readFault, g⟩ w))

/-! ## The contract and the abnormal responses -/

/-- 43_null_seed_contract.md R152: with the gate closed DIGEST is 0 and STATUS is OK, whatever LEN, OPERAND, SEED, the
memory and the map hold; nothing else changes but the working registers, of which nothing is said. An unseeded command
ignores SEED_VALID. -/
def Obligations.ClosedGateGivesTheSentinel : Prop :=
  (∀ (i : Instr) (s : State), i.wf = true → i.args.valid = false →
      ∃ w, exec i s = .next (s.ended ⟨.ok, 0⟩ w)) ∧
    (∀ (i : Instr) (s : State), i.wf = true → i.seeded = true → i.args.seedValid = false →
      ∃ w, exec i s = .next (s.ended ⟨.ok, 0⟩ w)) ∧
    ∀ i : Instr, i.seeded = false → i.gate = i.args.valid

/-- 43_null_seed_contract.md R151: the seed is 0 unseeded, `SEED[31:0]` seeded; the 32-bit cores start from those bits
and the 64-bit cores from their sign extension in both halves. -/
def Obligations.EffectiveSeedIsNarrowed : Prop :=
  (∀ c : Args, effectiveSeed false c = 0 ∧ effectiveSeed true c = c.seed.extractLsb' 0 32) ∧
    (∀ (seed : Word32) (w : Working), (start32 seed w).h = seed) ∧
    ∀ (seed : Word32) (w : Working),
      (start64 seed w).h1 = seed.signExtend 64 ∧ (start64 seed w).h2 = seed.signExtend 64

/-- A 32-bit command that answers OK leaves a DIGEST whose upper half is a copy of bit 31 (30_encoding.md section 3). -/
def Obligations.NarrowDigestsAreSignExtended : Prop :=
  ∀ (i : Instr) (s t : State) (d : Word64), i.wide = false → exec i s = .next t → t.control = .done ⟨.ok, d⟩ →
    d = (d.setWidth 32).signExtend 64

/-- The response as the host receives it: DIGEST, STATUS with the codes 0 OK, 1 ILLEGAL_DESCRIPTOR, 2 READ_FAULT (and
never 3), zeros (30_encoding.md section 3). -/
def Obligations.ResponseLayout : Prop :=
  (∀ r : Response, r.bits.extractLsb' 0 64 = r.digest ∧ r.bits.extractLsb' 64 2 = r.status.code ∧
      r.bits.extractLsb' 66 30 = 0 ∧ r.status.code ≠ 3) ∧
    Status.ok.code = 0 ∧ Status.illegalDescriptor.code = 1 ∧ Status.readFault.code = 2

/-- 60_exceptions.md R170: a descriptor that is illegal by R72 gives STATUS 1 with nothing else changed but the working
registers, of which nothing is said; and no legal command ever gives it. -/
def Obligations.IllegalDescriptorsAnswerAbnormally : Prop :=
  (∀ (s : State) (d : Descriptor), s.control = .busy d → hostWaits s = true →
      ((∃ j, 10 ≤ j ∧ j < 32 ∧ d.getLsbD j = true) ∨ d.getLsbD 3 = true ∨
        (d.getLsbD 2 = false ∧ 11 ≤ (d.extractLsb' 4 4).toNat)) →
      ∃ g w, step s = .next (s.ended ⟨.illegalDescriptor, g⟩ w)) ∧
    ∀ (i : Instr) (s t : State) (r : Response), i.wf = true → exec i s = .next t → t.control = .done r →
      r.status ≠ .illegalDescriptor

/-- 60_exceptions.md R171: a buffer command with the gate open and a defined launch gives STATUS 2 exactly where the port
refuses some byte of its range, which with no write racing is one that is not readable, and then changes nothing but the
working registers, of which nothing is said; and no other command gives it. (A write that races at an address that is not
readable: log entry 5, not said here.) -/
def Obligations.ReadFaultsComeFromUnreadableBytes : Prop :=
  (∀ (i : Instr) (s : State), i.buffer = true → i.gate = true → DefinedLaunch i.args s →
      ((∃ a, i.args.operand.toNat ≤ a ∧ a < i.args.operand.toNat + i.args.len.toNat ∧ portRead s a = none) ↔
        ∃ g w, exec i s = .next (s.ended ⟨.readFault, g⟩ w))) ∧
    (∀ (s : State) (a : Nat), racedBytes s a = [] → (portRead s a = none ↔ s.isReadable a = false)) ∧
    ∀ (i : Instr) (s t : State) (g : Word64), exec i s = .next t → t.control = .done ⟨.readFault, g⟩ →
      i.buffer = true ∧ i.gate = true ∧ 0 < i.args.len.toNat

/-- A command is refused exactly where it is a buffer command with the gate open whose launch is undefined: LEN negative, a
range that passes 2^64, or a byte in side-effecting memory (60_exceptions.md section 1; 93 U3, U4, U6 say that a model
refuses these). Which name comes first where two apply is the model's choice, log entry 14. That exec never faults holds
because the type `Fault` is empty: the abnormal responses, which U1 and U2 call faults, are next states, log entry 19. -/
def Obligations.OnlyUndefinedLaunchesAreRefused : Prop :=
  (∀ (i : Instr) (s : State), (∃ r, exec i s = .refused r) ↔
      (i.buffer = true ∧ i.gate = true ∧ ¬ DefinedLaunch i.args s)) ∧
    (∀ (i : Instr) (s : State), i.buffer = true → i.gate = true → i.args.len.msb = true →
      exec i s = .refused .negativeLength) ∧
    (∀ (i : Instr) (s : State), i.buffer = true → i.gate = true → i.args.len.msb = false →
      2 ^ 64 < i.args.operand.toNat + i.args.len.toNat → exec i s = .refused .rangeWraps) ∧
    ∀ (i : Instr) (s : State) (f : Fault), exec i s ≠ .fault f

/-- The order of the checks of one command: decode, gate, undefined launch, unreadable byte, digest (60_exceptions.md
section 2). That an undefined launch, one in side-effecting memory among them, is refused is log entry 14; that a write
racing at an address that is not readable does not make it so is log entry 5. The working registers are not spoken of. -/
def Obligations.ChecksAreMadeInOrder : Prop :=
  ∀ (s : State) (d : Descriptor), s.control = .busy d → hostWaits s = true →
    ((∃ e, decode d = .error e) → ∃ g w, step s = .next (s.ended ⟨.illegalDescriptor, g⟩ w)) ∧
    ∀ i, decode d = .ok i →
      (i.gate = false → ∃ w, step s = .next (s.ended ⟨.ok, 0⟩ w)) ∧
      (i.gate = true → i.buffer = true → ¬ DefinedLaunch i.args s → ∃ r, step s = .refused r) ∧
      (i.gate = true → i.buffer = true → DefinedLaunch i.args s →
        (∃ a, i.args.operand.toNat ≤ a ∧ a < i.args.operand.toNat + i.args.len.toNat ∧ s.isReadable a = false) →
        ∃ g w, step s = .next (s.ended ⟨.readFault, g⟩ w)) ∧
      (i.gate = true →
        (i.buffer = true → DefinedLaunch i.args s ∧
          ∀ a, i.args.operand.toNat ≤ a → a < i.args.operand.toNat + i.args.len.toNat → s.isReadable a = true) →
        ∃ g w, step s = .next (s.ended ⟨.ok, g⟩ w))

/-- The response is a function of the fields the command uses and, for a buffer command with the gate open, of the bytes
of its range; of nothing else in the state, and in particular of no earlier command (00_scope.md section 8, 30_encoding.md
section 1). For a buffer command with the gate open the platform's maps are the same there, and no write races with the
reads. -/
def Obligations.ResponseDependsOnUsedFieldsAndRangeOnly : Prop :=
  ∀ (i j : Instr) (s u : State), SameUse i j →
    (i.buffer = true → i.gate = true → s.sideEffecting = u.sideEffecting ∧
      NoRace s i.args.operand.toNat i.args.len.toNat ∧ NoRace u i.args.operand.toNat i.args.len.toNat ∧
      ∀ a, i.args.operand.toNat ≤ a → a < i.args.operand.toNat + i.args.len.toNat →
        s.isReadable a = u.isReadable a ∧ (s.isReadable a = true → s.mem.read a = u.mem.read a)) →
    outcomeSeen (exec i s) = outcomeSeen (exec j u)

/-- After a command has answered and its response has been taken, the next command is answered as after any other command
that could have stood there, abnormal or not (60_exceptions.md section 3): no error state is kept. Said for any two
commands, and for any two descriptors, the illegal ones among them. -/
def Obligations.NoResponseLeavesATrace : Prop :=
  (∀ (i j k : Instr) (s t u : State) (r q : Response),
      exec i s = .next t → t.control = .done r → exec j s = .next u → u.control = .done q →
      outcomeSeen (exec k (takeResponse r t)) = outcomeSeen (exec k (takeResponse q u))) ∧
    ∀ (d e : Descriptor) (k : Instr) (s t u : State) (r q : Response),
      step { s with control := .busy d } = .next t → t.control = .done r →
      step { s with control := .busy e } = .next u → u.control = .done q →
      outcomeSeen (exec k (takeResponse r t)) = outcomeSeen (exec k (takeResponse q u))

/-! ## The machine -/

/-- The control state moves from Idle to Busy when a descriptor is presented, from Busy to Done when the computation ends,
from Done to Idle when the host takes the response (10_state.md section 2), and to Idle on reset (70_reset_and_hazards.md
section 1; log entry 11); never otherwise. Busy stays Busy only while a write of the host lands (log entries 2, 5). -/
def Obligations.ControlMovesOnlyAsDrawn : Prop :=
  ∀ s t : State, step s = .next t →
    (s.control = .idle → t.control = .idle ∨
      ∃ d ch rest d', s.inbox = .present d ch :: rest ∧ presented s.responses d ch = some d' ∧ t.control = .busy d') ∧
    (∀ d, s.control = .busy d → (∃ r, t.control = .done r) ∨
      (t.control = .busy d ∧ ∃ a b rest, s.inbox = .write a b :: rest) ∨
      (t.control = .idle ∧ ∃ rest, s.inbox = .reset :: rest)) ∧
    (∀ r, s.control = .done r → t.control = .done r ∨
      (t.control = .idle ∧ ∃ rest, s.inbox = .take :: rest ∨ s.inbox = .reset :: rest))

/-- 70_reset_and_hazards.md R195: a descriptor is accepted only in Idle, the one in flight is not overwritten, one that is
ready earlier waits and is not dropped, and responses are taken one at a time in the order of the commands. -/
def Obligations.OneCommandAtATimeInOrder : Prop :=
  ∀ s t : State, step s = .next t →
    (∀ d, t.control = .busy d → s.control = .idle ∨ s.control = .busy d) ∧
    (∀ d ch rest, s.inbox = .present d ch :: rest → s.control ≠ .idle → t.inbox = s.inbox) ∧
    (t.responses = s.responses ∨ ∃ r, s.control = .done r ∧ t.control = .idle ∧ t.responses = s.responses ++ [r])

/-- 20_memory.md R41: no command changes a byte of memory, and no step does but one in which the host's side writes. -/
def Obligations.TheBlockNeverWritesMemory : Prop :=
  (∀ (i : Instr) (s t : State), exec i s = .next t → t.mem = s.mem ∧ ∀ a, t.mem.read a = s.mem.read a) ∧
    ∀ s t : State, (∀ a b rest, s.inbox ≠ .write a b :: rest) → step s = .next t → t.mem = s.mem

/-- Every step keeps the invariant: memory in canonical form within 2^64 addresses, and no data and no race in the idle
block (10_state.md section 1, 20_memory.md section 1; clearing the registers is the model's choice, log entry 9; the
bytes overwritten are the model's bookkeeping, log entry 5). -/
def Obligations.EveryStepKeepsTheInvariant : Prop :=
  ∀ s t : State, s.Inv → step s = .next t → t.Inv

/-- The invariant holds right after reset. That the registers hold 0 there is the model's choice (log entry 9: the spec says
unspecified), and so are the contents of memory (log entry 3). -/
def Obligations.ResetMeetsTheInvariant : Prop :=
  State.reset.Inv

/-- After reset the block is Idle with no command in flight and no response pending (10_state.md section 5); the other
fields are the model's own or the platform's (log entries 3, 4, 8, 9). -/
def Obligations.ResetIsIdle : Prop :=
  State.reset.control = .idle ∧ core.reset.control = .idle ∧ State.reset.responses = [] ∧
    (∀ d, State.reset.control ≠ .busy d) ∧ ∀ r, State.reset.control ≠ .done r

/-- Reset, whatever the block is doing, puts it to Idle with no response pending and none produced for a command in
flight, leaves memory alone, and marks the run if something was cut short (70_reset_and_hazards.md section 1; the mark is
the model's, log entry 11, and so are the cleared registers, log entry 9). -/
def Obligations.ResetAbandonsWhatIsInFlight : Prop :=
  ∀ (s : State) (rest : List HostAction), s.inbox = .reset :: rest →
    ∃ t, step s = .next t ∧ t.control = .idle ∧ t.responses = s.responses ∧ t.mem = s.mem ∧
      t.work = State.reset.work ∧ t.inbox = rest ∧ (t.cut = true ↔ s.cut = true ∨ s.control ≠ .idle)

/-- 10_state.md R23: the response is held until the host takes it, and taking it empties the latch. -/
def Obligations.ResponseIsHeldUntilTaken : Prop :=
  ∀ (s : State) (r : Response), s.control = .done r →
    (∀ rest, s.inbox = .take :: rest →
      ∃ t, step s = .next t ∧ t.control = .idle ∧ t.responses = s.responses ++ [r] ∧ t.inbox = rest ∧ t.mem = s.mem) ∧
    ((∀ rest, s.inbox ≠ .take :: rest) → (∀ rest, s.inbox ≠ .reset :: rest) →
      ∃ t, step s = .next t ∧ t.control = .done r ∧ t.responses = s.responses)

/-- Every descriptor, once accepted, is answered: presented to the idle block, chained or not, and its response taken, with
any number of writes of the host and of waits in between, it costs one step for each of these and one for the command;
afterwards control and registers are as after reset, and memory is as the host's writes left it; unless the launch is
undefined (70_reset_and_hazards.md sections 1 and 3). The count of steps is the model's choice (log entry 1), and so are
the cleared registers (log entry 9) and when a write lands (log entry 2). -/
def Obligations.EveryCommandRunsToCompletion : Prop :=
  ∀ (s : State) (d d' : Descriptor) (chain : Option Nat) (between rest : List HostAction), s.control = .idle →
    s.inbox = .present d chain :: (between ++ .take :: rest) → presented s.responses d chain = some d' →
    (∀ x ∈ between, x.passive = true) →
    (∀ i, decode d' = .ok i → i.buffer = true → i.gate = true → DefinedLaunch i.args s) →
    ∃ t r, core.run (between.length + 3) s = .next t ∧ t.control = State.reset.control ∧ t.work = State.reset.work ∧
      t.responses = s.responses ++ [r] ∧ t.inbox = rest ∧ t.mem = afterWrites between s.mem

/-- A write that lands before the descriptor is presented is what the command's reads return at a readable address, and
every other readable address reads as memory held before (20_memory.md section 5, (b)). -/
def Obligations.WritesBeforePresentingAreSeen : Prop :=
  ∀ (s : State) (a : Word64) (b : Byte) (d : Descriptor) (rest : List HostAction), s.control = .idle →
    s.inbox = .write a b :: .present d none :: rest →
    ∃ t, core.run 2 s = .next t ∧ t.control = .busy d ∧ t.inbox = rest ∧
      portRead t a.toNat = (if s.isReadable a.toNat = true then some b else none) ∧
      ∀ x, x ≠ a.toNat → portRead t x = if s.isReadable x = true then some (s.mem.read x) else none

/-- A read that races with writes returns the byte in memory or one they have overwritten, without a race memory's byte,
and at an address that is not readable nothing, race or no race (20_memory.md section 3; which byte is a free value, and
that R43 comes before R49 is the model's reading, log entry 5). A write that lands while a command is in flight puts what
it overwrites among them; one that lands when the response is available does not (section 5, (a) and (c)). -/
def Obligations.RacingReadsGiveTheOldOrANewByte : Prop :=
  (∀ (s : State) (a : Nat),
      (s.isReadable a = false → portRead s a = none) ∧
        (s.isReadable a = true →
          (portRead s a = some (s.mem.read a) ∨ ∃ b, b ∈ racedBytes s a ∧ portRead s a = some b) ∧
            (racedBytes s a = [] → portRead s a = some (s.mem.read a)))) ∧
    (∀ (s : State) (d : Descriptor) (a : Word64) (b : Byte) (rest : List HostAction), s.control = .busy d →
      s.inbox = .write a b :: rest →
      ∃ t, step s = .next t ∧ t.control = .busy d ∧ t.inbox = rest ∧ t.mem.read a.toNat = b ∧
        racedBytes t a.toNat = s.mem.read a.toNat :: racedBytes s a.toNat ∧
        ∀ x, x ≠ a.toNat → t.mem.read x = s.mem.read x ∧ racedBytes t x = racedBytes s x) ∧
    ∀ (s : State) (r : Response) (a : Word64) (b : Byte) (rest : List HostAction), s.control = .done r →
      s.inbox = .write a b :: rest → ∃ t, step s = .next t ∧ t.control = .done r ∧ t.overwritten = s.overwritten

/-- The host chains a seed by filling SEED from an earlier response: every other bit of the descriptor is as presented
(43_null_seed_contract.md section 4, 70_reset_and_hazards.md section 2). That the response to line `n + 1` is the entry `n`
of the responses taken is the model's choice, log entry 13. -/
def Obligations.SeedChainingFillsTheSeedField : Prop :=
  ∀ (s : State) (d : Descriptor) (n : Nat) (r : Response) (rest : List HostAction), s.control = .idle →
    s.inbox = .present d (some (n + 1)) :: rest → s.responses[n]? = some r →
    ∃ t d', step s = .next t ∧ t.control = .busy d' ∧ t.inbox = rest ∧
      d'.extractLsb' 128 64 = r.digest ∧ d'.extractLsb' 0 128 = d.extractLsb' 0 128

/-- The pseudo-instructions run the cores unchanged, and the two alias names encode to the same descriptors as
`hashValue32` (30_encoding.md section 5). That lines are data, and that a seed literal is assembled in two's complement in
64 bits, is the model's choice, log entry 16. -/
def Obligations.PseudoInstructionsRunTheCores : Prop :=
  (∀ (bits : Word64) (v : Int) (s : State),
      (∃ w, exec (asmInstr (pseudoHash32 bits (.literal v))) s =
        .next (s.ended ⟨.ok, (coreHash32 bits (BitVec.ofInt 32 v)).signExtend 64⟩ w)) ∧
      ∃ w, exec (asmInstr (pseudoHash64 bits (.literal v))) s =
        .next (s.ended ⟨.ok, coreHash64 bits (BitVec.ofInt 32 v)⟩ w)) ∧
    (∀ (ptr : Word64) (v : Int) (len : Word32),
      asmInstr (pseudoHash32Buf ptr len (.literal v)) =
        .hashBuf32Seeded ⟨.scalar .float64, true, true, len, ptr, BitVec.ofInt 64 v⟩ ∧
      asmInstr (pseudoHash64Buf ptr len (.literal v)) =
        .hashBuf64Seeded ⟨.scalar .float64, true, true, len, ptr, BitVec.ofInt 64 v⟩) ∧
    ∀ t value valid seed,
      encode (asmInstr (aliasHash32AsDouble t value valid seed)) = encode (asmInstr (.hashValue32 t value valid seed)) ∧
        encode (asmInstr (aliasHash t value valid seed)) = encode (asmInstr (.hashValue32 t value valid seed))
end

