-- ==== Sys2Proof/Laws/Cores.lean ====
section
/-! SUPPORT. What each step of a core does to each working register (10_state.md R22), one lemma per register, all true by
definition (each proved on the registers taken apart, so that no mixing arithmetic is ever evaluated); and which registers the block loops and the tails read and leave alone. -/

namespace Sys2Proof.Machine

/-! ### start32 -/

@[simp] theorem start32_h (seed : Word32) (w : Working) : (start32 seed w).h = seed := by cases w; rfl
@[simp] theorem start32_k (seed : Word32) (w : Working) : (start32 seed w).k = w.k := by cases w; rfl
@[simp] theorem start32_h1 (seed : Word32) (w : Working) : (start32 seed w).h1 = w.h1 := by cases w; rfl
@[simp] theorem start32_h2 (seed : Word32) (w : Working) : (start32 seed w).h2 = w.h2 := by cases w; rfl
@[simp] theorem start32_k1 (seed : Word32) (w : Working) : (start32 seed w).k1 = w.k1 := by cases w; rfl
@[simp] theorem start32_k2 (seed : Word32) (w : Working) : (start32 seed w).k2 = w.k2 := by cases w; rfl
@[simp] theorem start32_i (seed : Word32) (w : Working) : (start32 seed w).i = w.i := by cases w; rfl

/-! ### absorb32 -/

@[simp] theorem absorb32_h (x : Word32) (w : Working) : (absorb32 x w).h = round32 w.h x := by cases w; rfl
@[simp] theorem absorb32_k (x : Word32) (w : Working) : (absorb32 x w).k = x := by cases w; rfl
@[simp] theorem absorb32_h1 (x : Word32) (w : Working) : (absorb32 x w).h1 = w.h1 := by cases w; rfl
@[simp] theorem absorb32_h2 (x : Word32) (w : Working) : (absorb32 x w).h2 = w.h2 := by cases w; rfl
@[simp] theorem absorb32_k1 (x : Word32) (w : Working) : (absorb32 x w).k1 = w.k1 := by cases w; rfl
@[simp] theorem absorb32_k2 (x : Word32) (w : Working) : (absorb32 x w).k2 = w.k2 := by cases w; rfl
@[simp] theorem absorb32_i (x : Word32) (w : Working) : (absorb32 x w).i = w.i := by cases w; rfl

/-! ### absorbTail32 -/

@[simp] theorem absorbTail32_h (x : Word32) (w : Working) : (absorbTail32 x w).h = w.h ^^^ kmix32 x := by cases w; rfl
@[simp] theorem absorbTail32_k (x : Word32) (w : Working) : (absorbTail32 x w).k = x := by cases w; rfl
@[simp] theorem absorbTail32_h1 (x : Word32) (w : Working) : (absorbTail32 x w).h1 = w.h1 := by cases w; rfl
@[simp] theorem absorbTail32_h2 (x : Word32) (w : Working) : (absorbTail32 x w).h2 = w.h2 := by cases w; rfl
@[simp] theorem absorbTail32_k1 (x : Word32) (w : Working) : (absorbTail32 x w).k1 = w.k1 := by cases w; rfl
@[simp] theorem absorbTail32_k2 (x : Word32) (w : Working) : (absorbTail32 x w).k2 = w.k2 := by cases w; rfl
@[simp] theorem absorbTail32_i (x : Word32) (w : Working) : (absorbTail32 x w).i = w.i := by cases w; rfl

/-! ### finish32 -/

@[simp] theorem finish32_h (n : Word32) (w : Working) : (finish32 n w).h = final32 w.h n := by cases w; rfl
@[simp] theorem finish32_k (n : Word32) (w : Working) : (finish32 n w).k = w.k := by cases w; rfl
@[simp] theorem finish32_h1 (n : Word32) (w : Working) : (finish32 n w).h1 = w.h1 := by cases w; rfl
@[simp] theorem finish32_h2 (n : Word32) (w : Working) : (finish32 n w).h2 = w.h2 := by cases w; rfl
@[simp] theorem finish32_k1 (n : Word32) (w : Working) : (finish32 n w).k1 = w.k1 := by cases w; rfl
@[simp] theorem finish32_k2 (n : Word32) (w : Working) : (finish32 n w).k2 = w.k2 := by cases w; rfl
@[simp] theorem finish32_i (n : Word32) (w : Working) : (finish32 n w).i = w.i := by cases w; rfl

/-! ### start64 -/

@[simp] theorem start64_h (seed : Word32) (w : Working) : (start64 seed w).h = w.h := by cases w; rfl
@[simp] theorem start64_k (seed : Word32) (w : Working) : (start64 seed w).k = w.k := by cases w; rfl
@[simp] theorem start64_h1 (seed : Word32) (w : Working) : (start64 seed w).h1 = seed.signExtend 64 := by cases w; rfl
@[simp] theorem start64_h2 (seed : Word32) (w : Working) : (start64 seed w).h2 = seed.signExtend 64 := by cases w; rfl
@[simp] theorem start64_k1 (seed : Word32) (w : Working) : (start64 seed w).k1 = w.k1 := by cases w; rfl
@[simp] theorem start64_k2 (seed : Word32) (w : Working) : (start64 seed w).k2 = w.k2 := by cases w; rfl
@[simp] theorem start64_i (seed : Word32) (w : Working) : (start64 seed w).i = w.i := by cases w; rfl

/-! ### absorb64 -/

@[simp] theorem absorb64_h (x y : Word64) (w : Working) : (absorb64 x y w).h = w.h := by cases w; rfl
@[simp] theorem absorb64_k (x y : Word64) (w : Working) : (absorb64 x y w).k = w.k := by cases w; rfl
@[simp] theorem absorb64_h1 (x y : Word64) (w : Working) : (absorb64 x y w).h1 = blockH1 w.h1 w.h2 x := by cases w; rfl
@[simp] theorem absorb64_h2 (x y : Word64) (w : Working) : (absorb64 x y w).h2 = blockH2 (blockH1 w.h1 w.h2 x) w.h2 y := by cases w; rfl
@[simp] theorem absorb64_k1 (x y : Word64) (w : Working) : (absorb64 x y w).k1 = x := by cases w; rfl
@[simp] theorem absorb64_k2 (x y : Word64) (w : Working) : (absorb64 x y w).k2 = y := by cases w; rfl
@[simp] theorem absorb64_i (x y : Word64) (w : Working) : (absorb64 x y w).i = w.i := by cases w; rfl

/-! ### absorbTailK2 -/

@[simp] theorem absorbTailK2_h (x : Word64) (w : Working) : (absorbTailK2 x w).h = w.h := by cases w; rfl
@[simp] theorem absorbTailK2_k (x : Word64) (w : Working) : (absorbTailK2 x w).k = w.k := by cases w; rfl
@[simp] theorem absorbTailK2_h1 (x : Word64) (w : Working) : (absorbTailK2 x w).h1 = w.h1 := by cases w; rfl
@[simp] theorem absorbTailK2_h2 (x : Word64) (w : Working) : (absorbTailK2 x w).h2 = w.h2 ^^^ k2mix x := by cases w; rfl
@[simp] theorem absorbTailK2_k1 (x : Word64) (w : Working) : (absorbTailK2 x w).k1 = w.k1 := by cases w; rfl
@[simp] theorem absorbTailK2_k2 (x : Word64) (w : Working) : (absorbTailK2 x w).k2 = x := by cases w; rfl
@[simp] theorem absorbTailK2_i (x : Word64) (w : Working) : (absorbTailK2 x w).i = w.i := by cases w; rfl

/-! ### absorbTailK1 -/

@[simp] theorem absorbTailK1_h (x : Word64) (w : Working) : (absorbTailK1 x w).h = w.h := by cases w; rfl
@[simp] theorem absorbTailK1_k (x : Word64) (w : Working) : (absorbTailK1 x w).k = w.k := by cases w; rfl
@[simp] theorem absorbTailK1_h1 (x : Word64) (w : Working) : (absorbTailK1 x w).h1 = w.h1 ^^^ k1mix x := by cases w; rfl
@[simp] theorem absorbTailK1_h2 (x : Word64) (w : Working) : (absorbTailK1 x w).h2 = w.h2 := by cases w; rfl
@[simp] theorem absorbTailK1_k1 (x : Word64) (w : Working) : (absorbTailK1 x w).k1 = x := by cases w; rfl
@[simp] theorem absorbTailK1_k2 (x : Word64) (w : Working) : (absorbTailK1 x w).k2 = w.k2 := by cases w; rfl
@[simp] theorem absorbTailK1_i (x : Word64) (w : Working) : (absorbTailK1 x w).i = w.i := by cases w; rfl

/-! ### finish64 -/

@[simp] theorem finish64_h (n : Word64) (w : Working) : (finish64 n w).h = w.h := by cases w; rfl
@[simp] theorem finish64_k (n : Word64) (w : Working) : (finish64 n w).k = w.k := by cases w; rfl
@[simp] theorem finish64_h1 (n : Word64) (w : Working) : (finish64 n w).h1 = final64 w.h1 w.h2 n := by cases w; rfl
@[simp] theorem finish64_h2 (n : Word64) (w : Working) : (finish64 n w).h2 = w.h2 := by cases w; rfl
@[simp] theorem finish64_k1 (n : Word64) (w : Working) : (finish64 n w).k1 = w.k1 := by cases w; rfl
@[simp] theorem finish64_k2 (n : Word64) (w : Working) : (finish64 n w).k2 = w.k2 := by cases w; rfl
@[simp] theorem finish64_i (n : Word64) (w : Working) : (finish64 n w).i = w.i := by cases w; rfl

/-! ### firstBlock -/

@[simp] theorem firstBlock_h (w : Working) : (firstBlock w).h = w.h := by cases w; rfl
@[simp] theorem firstBlock_k (w : Working) : (firstBlock w).k = w.k := by cases w; rfl
@[simp] theorem firstBlock_h1 (w : Working) : (firstBlock w).h1 = w.h1 := by cases w; rfl
@[simp] theorem firstBlock_h2 (w : Working) : (firstBlock w).h2 = w.h2 := by cases w; rfl
@[simp] theorem firstBlock_k1 (w : Working) : (firstBlock w).k1 = w.k1 := by cases w; rfl
@[simp] theorem firstBlock_k2 (w : Working) : (firstBlock w).k2 = w.k2 := by cases w; rfl
@[simp] theorem firstBlock_i (w : Working) : (firstBlock w).i = 0 := by cases w; rfl

/-! ### nextBlock -/

@[simp] theorem nextBlock_h (w : Working) : (nextBlock w).h = w.h := by cases w; rfl
@[simp] theorem nextBlock_k (w : Working) : (nextBlock w).k = w.k := by cases w; rfl
@[simp] theorem nextBlock_h1 (w : Working) : (nextBlock w).h1 = w.h1 := by cases w; rfl
@[simp] theorem nextBlock_h2 (w : Working) : (nextBlock w).h2 = w.h2 := by cases w; rfl
@[simp] theorem nextBlock_k1 (w : Working) : (nextBlock w).k1 = w.k1 := by cases w; rfl
@[simp] theorem nextBlock_k2 (w : Working) : (nextBlock w).k2 = w.k2 := by cases w; rfl
@[simp] theorem nextBlock_i (w : Working) : (nextBlock w).i = w.i + 1 := by cases w; rfl

/-! ### Block loops and tails -/

/-- The state `h` after the 32-bit blocks depends on the registers only through `h`. -/
theorem blocks32_h (B : List Byte) (nb : Nat) (w : Working) :
    (blocks32 B nb w).h = (words32 B nb).foldl round32 w.h := by
  unfold blocks32
  induction words32 B nb generalizing w with
  | nil => rfl
  | cons k ks ih => rw [List.foldl_cons, List.foldl_cons, ih, nextBlock_h, absorb32_h]

/-- The halves `h1`, `h2` after the 64-bit blocks depend on the registers only through `h1`, `h2`. -/
theorem blocks64_h (B : List Byte) (nb : Nat) (w : Working) :
    ((blocks64 B nb w).h1, (blocks64 B nb w).h2) =
      (words64 B nb).foldl (fun h k => block64 h.1 h.2 k.1 k.2) (w.h1, w.h2) := by
  unfold blocks64
  induction words64 B nb generalizing w with
  | nil => rfl
  | cons k ks ih =>
    rw [List.foldl_cons, List.foldl_cons, ih, nextBlock_h1, nextBlock_h2, absorb64_h1, absorb64_h2, block64]

/-- The 32-bit tail on `h`. -/
theorem tail32_h (T : List Byte) (w : Working) :
    (tail32 T w).h = if 0 < T.length then w.h ^^^ kmix32 (leWord 32 T) else w.h := by
  unfold tail32; split <;> rfl

/-- The 64-bit tail on `h1`. -/
theorem tail64_h1 (T : List Byte) (w : Working) :
    (tail64 T w).h1 = if 1 ≤ T.length then w.h1 ^^^ k1mix (leWord 64 (T.take 8)) else w.h1 := by
  unfold tail64; dsimp only; split <;> split <;> rfl

/-- The 64-bit tail on `h2`. -/
theorem tail64_h2 (T : List Byte) (w : Working) :
    (tail64 T w).h2 = if 9 ≤ T.length then w.h2 ^^^ k2mix (leWord 64 (T.drop 8)) else w.h2 := by
  unfold tail64; dsimp only; split <;> split <;> rfl

/-- The block index counts the 32-bit blocks (10_state.md R24). -/
theorem blocks32_i (B : List Byte) (nb : Nat) (w : Working) : (blocks32 B nb w).i = w.i + BitVec.ofNat 30 nb := by
  have count : ∀ (ks : List Word32) (w : Working),
      (ks.foldl (fun w k => nextBlock (absorb32 k w)) w).i = w.i + BitVec.ofNat 30 ks.length := by
    intro ks
    induction ks with
    | nil => intro w; simp
    | cons k ks ih =>
      intro w
      rw [List.foldl_cons, ih, nextBlock_i, absorb32_i, List.length_cons, BitVec.add_assoc, BitVec.ofNat_add,
        BitVec.add_comm 1]
      rfl
  simpa [blocks32, words32] using count (words32 B nb) w

/-- The block index counts the 64-bit blocks (10_state.md R24). -/
theorem blocks64_i (B : List Byte) (nb : Nat) (w : Working) : (blocks64 B nb w).i = w.i + BitVec.ofNat 30 nb := by
  have count : ∀ (ks : List (Word64 × Word64)) (w : Working),
      (ks.foldl (fun w k => nextBlock (absorb64 k.1 k.2 w)) w).i = w.i + BitVec.ofNat 30 ks.length := by
    intro ks
    induction ks with
    | nil => intro w; simp
    | cons k ks ih =>
      intro w
      rw [List.foldl_cons, ih, nextBlock_i, absorb64_i, List.length_cons, BitVec.add_assoc, BitVec.ofNat_add,
        BitVec.add_comm 1]
      rfl
  simpa [blocks64, words64] using count (words64 B nb) w

end Sys2Proof.Machine
end

