-- ==== Sys2Proof/Laws/Memory.lean ====
section
/-! SUPPORT. The laws of memory: a read after a write, that a write keeps the canonical form, and that two memories in
canonical form with the same bytes are equal. -/

namespace Sys2Proof.Machine

/-- The empty memory holds the byte of an unlisted address everywhere. -/
@[simp] theorem Memory.read_nil (a : Nat) : Memory.read [] a = Memory.unlisted := rfl

/-- An address no entry lists. -/
theorem Memory.read_of_forall_ne {m : Memory} {a : Nat} (h : ∀ c ∈ m, c.1 ≠ a) : Memory.read m a = Memory.unlisted := by
  induction m with
  | nil => rfl
  | cons c rest ih =>
    simp [Memory.read, h c List.mem_cons_self, ih (fun d hd => h d (List.mem_cons_of_mem _ hd))]

/-! ### erase -/

/-- A read of the erased address. -/
@[simp] theorem Memory.read_erase_same (m : Memory) (a : Nat) : (m.erase a).read a = Memory.unlisted :=
  Memory.read_of_forall_ne (fun c hc => by simpa using (List.mem_filter.mp hc).2)

/-- A read of another address. -/
theorem Memory.read_erase_other (m : Memory) {a x : Nat} (h : x ≠ a) : (m.erase a).read x = m.read x := by
  induction m with
  | nil => rfl
  | cons c rest ih =>
    unfold Memory.erase at ih ⊢
    simp only [ne_eq, decide_not] at ih ⊢
    by_cases hc : c.1 = a
    · simp [hc, Memory.read, Ne.symm h, ih]
    · simp [hc, Memory.read, ih]

/-! ### insert -/

/-- A read of the inserted address. -/
@[simp] theorem Memory.read_insert_same (m : Memory) (a : Nat) (b : Byte) : (m.insert a b).read a = b := by
  induction m with
  | nil => simp [Memory.insert, Memory.read]
  | cons c rest ih =>
    unfold Memory.insert
    split
    · simp [Memory.read]
    · split
      · simp [Memory.read]
      · rename_i h; simp [Memory.read, Ne.symm h, ih]

/-- A read of another address. -/
theorem Memory.read_insert_other (m : Memory) {a x : Nat} (b : Byte) (h : x ≠ a) : (m.insert a b).read x = m.read x := by
  induction m with
  | nil => simp [Memory.insert, Memory.read, Ne.symm h]
  | cons c rest ih =>
    unfold Memory.insert
    split
    · simp [Memory.read, Ne.symm h]
    · split
      · rename_i hc; subst hc; simp [Memory.read, Ne.symm h]
      · simp [Memory.read, ih]

/-- Every entry after an insertion is the new one or an old one. -/
theorem Memory.mem_insert {m : Memory} {a : Nat} {b : Byte} {c : Host.Cell} (h : c ∈ m.insert a b) :
    c = (a, b) ∨ c ∈ m := by
  induction m with
  | nil => simpa [Memory.insert] using h
  | cons d rest ih =>
    unfold Memory.insert at h
    split at h
    · simpa using h
    · split at h
      · rcases List.mem_cons.mp h with h | h
        · exact .inl h
        · exact .inr (List.mem_cons_of_mem _ h)
      · rcases List.mem_cons.mp h with h | h
        · exact .inr (h ▸ List.mem_cons_self)
        · exact (ih h).imp id (List.mem_cons_of_mem _)

/-- An insertion keeps the addresses strictly rising. -/
theorem Memory.insert_sorted {m : Memory} (h : m.Pairwise (fun c d => c.1 < d.1)) (a : Nat) (b : Byte) :
    (m.insert a b).Pairwise (fun c d => c.1 < d.1) := by
  induction m with
  | nil => simp [Memory.insert]
  | cons c rest ih =>
    obtain ⟨hc, hr⟩ := List.pairwise_cons.mp h
    unfold Memory.insert
    split
    · rename_i hlt
      exact List.pairwise_cons.mpr ⟨fun d hd => (List.mem_cons.mp hd).elim (fun e => e ▸ hlt)
        (fun hd => Nat.lt_trans hlt (hc d hd)), h⟩
    · split
      · rename_i heq; subst heq; exact List.pairwise_cons.mpr ⟨hc, hr⟩
      · refine List.pairwise_cons.mpr ⟨fun d hd => ?_, ih hr⟩
        rcases Memory.mem_insert hd with rfl | hd
        · exact Nat.lt_of_le_of_ne (by omega) (by omega)
        · exact hc d hd

/-! ### write -/

/-- A read at the written address gives the byte written. -/
@[simp] theorem Memory.read_write_same (m : Memory) (a : Nat) (b : Byte) : (m.write a b).read a = b := by
  unfold Memory.write
  split
  · rename_i h; rw [Memory.read_erase_same, h]
  · exact Memory.read_insert_same m a b

/-- A read at another address gives what it gave before. -/
theorem Memory.read_write_other (m : Memory) {a x : Nat} (b : Byte) (h : x ≠ a) : (m.write a b).read x = m.read x := by
  unfold Memory.write
  split
  · exact Memory.read_erase_other m h
  · exact Memory.read_insert_other m b h

/-- A write within the address space keeps the canonical form. -/
theorem Memory.write_wf {m : Memory} (h : m.wf) {a : Nat} (ha : a < 2 ^ 64) (b : Byte) : (m.write a b).wf := by
  unfold Memory.write
  split
  · exact ⟨h.1.filter _, fun c hc => h.2 c (List.mem_filter.mp hc).1⟩
  · rename_i hb
    exact ⟨Memory.insert_sorted h.1 a b, fun c hc => (Memory.mem_insert hc).elim (fun e => e ▸ ⟨ha, hb⟩) (h.2 c)⟩

/-! ### The canonical form -/

/-- Two memories in canonical form that hold the same byte at every address are equal. -/
theorem Memory.eq_of_read_eq {m n : Memory} (hm : m.wf) (hn : n.wf) (h : ∀ a, m.read a = n.read a) : m = n := by
  induction m generalizing n with
  | nil =>
    cases n with
    | nil => rfl
    | cons d rest =>
      have := h d.1
      rw [Memory.read_nil, Memory.read, if_pos rfl] at this
      exact absurd this.symm (hn.2 d List.mem_cons_self).2
  | cons c restm ih =>
    obtain ⟨hcs, hms⟩ := List.pairwise_cons.mp hm.1
    have hc := h c.1
    rw [Memory.read, if_pos rfl] at hc
    cases n with
    | nil => exact absurd hc (hm.2 c List.mem_cons_self).2
    | cons d restn =>
      obtain ⟨hds, hns⟩ := List.pairwise_cons.mp hn.1
      have hd := h d.1
      rw [Memory.read.eq_def (d :: restn)] at hd
      simp only [if_true] at hd
      have heq : c.1 = d.1 := by
        rcases Nat.lt_trichotomy c.1 d.1 with hlt | he | hgt
        · rw [Memory.read_of_forall_ne (m := d :: restn) (fun e he => by
            rcases List.mem_cons.mp he with rfl | he
            · omega
            · have := hds e he; omega)] at hc
          exact absurd hc (hm.2 c List.mem_cons_self).2
        · exact he
        · rw [Memory.read_of_forall_ne (m := c :: restm) (fun e he => by
            rcases List.mem_cons.mp he with rfl | he
            · omega
            · have := hcs e he; omega)] at hd
          exact absurd hd.symm (hn.2 d List.mem_cons_self).2
      have hb : c.2 = d.2 := by simpa [Memory.read, heq] using hc
      have hcd : c = d := Prod.ext heq hb
      subst hcd
      congr 1
      refine ih ⟨hms, fun e he => hm.2 e (List.mem_cons_of_mem _ he)⟩
        ⟨hns, fun e he => hn.2 e (List.mem_cons_of_mem _ he)⟩ (fun a => ?_)
      have ha := h a
      by_cases hca : c.1 = a
      · rw [Memory.read_of_forall_ne (fun e he => by have := hcs e he; omega),
          Memory.read_of_forall_ne (fun e he => by have := hds e he; omega)]
      · simpa [Memory.read, hca] using ha

end Sys2Proof.Machine
end

