-- ==== Sys2Proof/Laws/State.lean ====
section
/-! SUPPORT. What each update of the state does to each field, one lemma per field, all true by definition. -/

namespace Sys2Proof.Machine

/-! ### respond -/

@[simp] theorem respond_control (r : Response) (w : Working) (s : State) : (respond r w s).control = .done r := rfl
@[simp] theorem respond_work (r : Response) (w : Working) (s : State) : (respond r w s).work = w := rfl
@[simp] theorem respond_mem (r : Response) (w : Working) (s : State) : (respond r w s).mem = s.mem := rfl
@[simp] theorem respond_readable (r : Response) (w : Working) (s : State) : (respond r w s).readable = s.readable := rfl
@[simp] theorem respond_sideEffecting (r : Response) (w : Working) (s : State) : (respond r w s).sideEffecting = s.sideEffecting := rfl
@[simp] theorem respond_overwritten (r : Response) (w : Working) (s : State) : (respond r w s).overwritten = s.overwritten := rfl
@[simp] theorem respond_inbox (r : Response) (w : Working) (s : State) : (respond r w s).inbox = s.inbox := rfl
@[simp] theorem respond_responses (r : Response) (w : Working) (s : State) : (respond r w s).responses = s.responses := rfl
@[simp] theorem respond_cut (r : Response) (w : Working) (s : State) : (respond r w s).cut = s.cut := rfl
@[simp] theorem respond_fresh (r : Response) (w : Working) (s : State) : (respond r w s).fresh = s.fresh + 1 := rfl

/-! ### toIdle -/

@[simp] theorem toIdle_control (s : State) : (toIdle s).control = .idle := rfl
@[simp] theorem toIdle_work (s : State) : (toIdle s).work = Working.reset := rfl
@[simp] theorem toIdle_mem (s : State) : (toIdle s).mem = s.mem := rfl
@[simp] theorem toIdle_readable (s : State) : (toIdle s).readable = s.readable := rfl
@[simp] theorem toIdle_sideEffecting (s : State) : (toIdle s).sideEffecting = s.sideEffecting := rfl
@[simp] theorem toIdle_overwritten (s : State) : (toIdle s).overwritten = [] := rfl
@[simp] theorem toIdle_inbox (s : State) : (toIdle s).inbox = s.inbox := rfl
@[simp] theorem toIdle_responses (s : State) : (toIdle s).responses = s.responses := rfl
@[simp] theorem toIdle_cut (s : State) : (toIdle s).cut = s.cut := rfl
@[simp] theorem toIdle_fresh (s : State) : (toIdle s).fresh = s.fresh := rfl

/-! ### takeResponse -/

@[simp] theorem takeResponse_control (r : Response) (s : State) : (takeResponse r s).control = .idle := rfl
@[simp] theorem takeResponse_work (r : Response) (s : State) : (takeResponse r s).work = Working.reset := rfl
@[simp] theorem takeResponse_mem (r : Response) (s : State) : (takeResponse r s).mem = s.mem := rfl
@[simp] theorem takeResponse_readable (r : Response) (s : State) : (takeResponse r s).readable = s.readable := rfl
@[simp] theorem takeResponse_sideEffecting (r : Response) (s : State) : (takeResponse r s).sideEffecting = s.sideEffecting := rfl
@[simp] theorem takeResponse_overwritten (r : Response) (s : State) : (takeResponse r s).overwritten = [] := rfl
@[simp] theorem takeResponse_inbox (r : Response) (s : State) : (takeResponse r s).inbox = s.inbox := rfl
@[simp] theorem takeResponse_responses (r : Response) (s : State) : (takeResponse r s).responses = s.responses ++ [r] := rfl
@[simp] theorem takeResponse_cut (r : Response) (s : State) : (takeResponse r s).cut = s.cut := rfl
@[simp] theorem takeResponse_fresh (r : Response) (s : State) : (takeResponse r s).fresh = s.fresh := rfl

/-! ### applyReset -/

@[simp] theorem applyReset_control (s : State) : (applyReset s).control = .idle := rfl
@[simp] theorem applyReset_work (s : State) : (applyReset s).work = Working.reset := rfl
@[simp] theorem applyReset_mem (s : State) : (applyReset s).mem = s.mem := rfl
@[simp] theorem applyReset_readable (s : State) : (applyReset s).readable = s.readable := rfl
@[simp] theorem applyReset_sideEffecting (s : State) : (applyReset s).sideEffecting = s.sideEffecting := rfl
@[simp] theorem applyReset_overwritten (s : State) : (applyReset s).overwritten = [] := rfl
@[simp] theorem applyReset_inbox (s : State) : (applyReset s).inbox = s.inbox := rfl
@[simp] theorem applyReset_responses (s : State) : (applyReset s).responses = s.responses := rfl
@[simp] theorem applyReset_cut (s : State) : (applyReset s).cut = (s.cut || decide (s.control ≠ .idle)) := rfl
@[simp] theorem applyReset_fresh (s : State) : (applyReset s).fresh = s.fresh := rfl

/-! ### hostWrite -/

@[simp] theorem hostWrite_control (a : Word64) (b : Byte) (s : State) : (hostWrite a b s).control = s.control := rfl
@[simp] theorem hostWrite_work (a : Word64) (b : Byte) (s : State) : (hostWrite a b s).work = s.work := rfl
@[simp] theorem hostWrite_mem (a : Word64) (b : Byte) (s : State) : (hostWrite a b s).mem = s.mem.write a.toNat b := rfl
@[simp] theorem hostWrite_readable (a : Word64) (b : Byte) (s : State) : (hostWrite a b s).readable = s.readable := rfl
@[simp] theorem hostWrite_sideEffecting (a : Word64) (b : Byte) (s : State) : (hostWrite a b s).sideEffecting = s.sideEffecting := rfl
@[simp] theorem hostWrite_overwritten (a : Word64) (b : Byte) (s : State) : (hostWrite a b s).overwritten = s.overwritten := rfl
@[simp] theorem hostWrite_inbox (a : Word64) (b : Byte) (s : State) : (hostWrite a b s).inbox = s.inbox := rfl
@[simp] theorem hostWrite_responses (a : Word64) (b : Byte) (s : State) : (hostWrite a b s).responses = s.responses := rfl
@[simp] theorem hostWrite_cut (a : Word64) (b : Byte) (s : State) : (hostWrite a b s).cut = s.cut := rfl
@[simp] theorem hostWrite_fresh (a : Word64) (b : Byte) (s : State) : (hostWrite a b s).fresh = s.fresh := rfl

/-! ### racingWrite -/

@[simp] theorem racingWrite_control (a : Word64) (b : Byte) (s : State) : (racingWrite a b s).control = s.control := rfl
@[simp] theorem racingWrite_work (a : Word64) (b : Byte) (s : State) : (racingWrite a b s).work = s.work := rfl
@[simp] theorem racingWrite_mem (a : Word64) (b : Byte) (s : State) : (racingWrite a b s).mem = s.mem.write a.toNat b := rfl
@[simp] theorem racingWrite_readable (a : Word64) (b : Byte) (s : State) : (racingWrite a b s).readable = s.readable := rfl
@[simp] theorem racingWrite_sideEffecting (a : Word64) (b : Byte) (s : State) : (racingWrite a b s).sideEffecting = s.sideEffecting := rfl
@[simp] theorem racingWrite_overwritten (a : Word64) (b : Byte) (s : State) : (racingWrite a b s).overwritten = (a.toNat, s.mem.read a.toNat) :: s.overwritten := rfl
@[simp] theorem racingWrite_inbox (a : Word64) (b : Byte) (s : State) : (racingWrite a b s).inbox = s.inbox := rfl
@[simp] theorem racingWrite_responses (a : Word64) (b : Byte) (s : State) : (racingWrite a b s).responses = s.responses := rfl
@[simp] theorem racingWrite_cut (a : Word64) (b : Byte) (s : State) : (racingWrite a b s).cut = s.cut := rfl
@[simp] theorem racingWrite_fresh (a : Word64) (b : Byte) (s : State) : (racingWrite a b s).fresh = s.fresh := rfl

/-! ### accept -/

@[simp] theorem accept_control (d : Descriptor) (s : State) : (accept d s).control = .busy d := rfl
@[simp] theorem accept_work (d : Descriptor) (s : State) : (accept d s).work = s.work := rfl
@[simp] theorem accept_mem (d : Descriptor) (s : State) : (accept d s).mem = s.mem := rfl
@[simp] theorem accept_readable (d : Descriptor) (s : State) : (accept d s).readable = s.readable := rfl
@[simp] theorem accept_sideEffecting (d : Descriptor) (s : State) : (accept d s).sideEffecting = s.sideEffecting := rfl
@[simp] theorem accept_overwritten (d : Descriptor) (s : State) : (accept d s).overwritten = [] := rfl
@[simp] theorem accept_inbox (d : Descriptor) (s : State) : (accept d s).inbox = s.inbox := rfl
@[simp] theorem accept_responses (d : Descriptor) (s : State) : (accept d s).responses = s.responses := rfl
@[simp] theorem accept_cut (d : Descriptor) (s : State) : (accept d s).cut = s.cut := rfl
@[simp] theorem accept_fresh (d : Descriptor) (s : State) : (accept d s).fresh = s.fresh := rfl

/-! ### resetTurn -/

@[simp] theorem resetTurn_control (s : State) : (resetTurn s).control = .idle := rfl
@[simp] theorem resetTurn_work (s : State) : (resetTurn s).work = Working.reset := rfl
@[simp] theorem resetTurn_mem (s : State) : (resetTurn s).mem = s.mem := rfl
@[simp] theorem resetTurn_readable (s : State) : (resetTurn s).readable = s.readable := rfl
@[simp] theorem resetTurn_sideEffecting (s : State) : (resetTurn s).sideEffecting = s.sideEffecting := rfl
@[simp] theorem resetTurn_overwritten (s : State) : (resetTurn s).overwritten = [] := rfl
@[simp] theorem resetTurn_inbox (s : State) : (resetTurn s).inbox = s.inbox.tail := rfl
@[simp] theorem resetTurn_responses (s : State) : (resetTurn s).responses = s.responses := rfl
@[simp] theorem resetTurn_cut (s : State) : (resetTurn s).cut = (s.cut || decide (s.control ≠ .idle)) := rfl
@[simp] theorem resetTurn_fresh (s : State) : (resetTurn s).fresh = s.fresh := rfl

/-! ### inFlight -/

@[simp] theorem inFlight_control (d : Descriptor) (s : State) : (inFlight d s).control = .busy d := rfl
@[simp] theorem inFlight_work (d : Descriptor) (s : State) : (inFlight d s).work = s.work := rfl
@[simp] theorem inFlight_mem (d : Descriptor) (s : State) : (inFlight d s).mem = s.mem := rfl
@[simp] theorem inFlight_readable (d : Descriptor) (s : State) : (inFlight d s).readable = s.readable := rfl
@[simp] theorem inFlight_sideEffecting (d : Descriptor) (s : State) : (inFlight d s).sideEffecting = s.sideEffecting := rfl
@[simp] theorem inFlight_overwritten (d : Descriptor) (s : State) : (inFlight d s).overwritten = [] := rfl
@[simp] theorem inFlight_inbox (d : Descriptor) (s : State) : (inFlight d s).inbox = s.inbox.dropWhile HostAction.interferes := rfl
@[simp] theorem inFlight_responses (d : Descriptor) (s : State) : (inFlight d s).responses = s.responses := rfl
@[simp] theorem inFlight_cut (d : Descriptor) (s : State) : (inFlight d s).cut = s.cut := rfl
@[simp] theorem inFlight_fresh (d : Descriptor) (s : State) : (inFlight d s).fresh = s.fresh := rfl

/-- The state a command leaves is the one `State.ended` describes. -/
theorem respond_eq_ended (r : Response) (w : Working) (s : State) : respond r w s = s.ended r w := rfl

end Sys2Proof.Machine
end

