-- ==== Sys2Proof/Laws/Ops.lean ====
section
/-! SUPPORT. What each shared operation can do, said once: the read port, the reads of a buffer, the turns of the host. -/

namespace Sys2Proof.Machine

/-! ## The read port -/

/-- The bytes a racing read may return are the byte of memory and the bytes overwritten. -/
theorem portByte_mem (s : State) (a : Nat) : portByte s a = s.mem.read a ∨ portByte s a ∈ racedBytes s a := by
  unfold portByte
  split
  · exact .inl rfl
  · rw [List.getD_eq_getElem?_getD]
    cases h : (racedBytes s a)[Config.raceChoice s.fresh a % ((racedBytes s a).length + 1)]? with
    | none => exact .inl rfl
    | some b => exact .inr (List.mem_of_getElem? h)

/-- With no write racing, the port reads memory. -/
theorem portByte_of_noRace {s : State} {a : Nat} (h : racedBytes s a = []) : portByte s a = s.mem.read a := by
  simp [portByte, h]

/-- With no write racing, the port gives memory's byte of a readable address and refuses any other. -/
theorem portRead_of_noRace {s : State} {a : Nat} (h : racedBytes s a = []) :
    portRead s a = if s.isReadable a = true then some (s.mem.read a) else none := by
  rw [portRead, portByte_of_noRace h]

/-- The port refuses exactly the addresses that are not readable, racing or not. -/
theorem portRead_eq_none (s : State) (a : Nat) : portRead s a = none ↔ s.isReadable a = false := by
  unfold portRead
  cases s.isReadable a <;> simp

/-- What the port reads depends on memory, on the map of readable addresses, on the bytes overwritten and on the counter
alone. -/
theorem portRead_congr {s u : State} {a : Nat} (hm : s.mem.read a = u.mem.read a) (hr : s.readable = u.readable)
    (ho : s.overwritten = u.overwritten) (hf : s.fresh = u.fresh) : portRead s a = portRead u a := by
  simp [portRead, portByte, racedBytes, State.isReadable, hm, hr, ho, hf]

/-! ## The reads of a buffer -/

/-- The reads of a buffer depend on the port's answers in its range alone. -/
theorem readBytes_congr {s u : State} {a n : Nat}
    (h : ∀ x, a ≤ x → x < a + n → portRead s x = portRead u x) : readBytes s a n = readBytes u a n := by
  induction n generalizing a with
  | zero => rfl
  | succ n ih =>
    have h0 := h a (by omega) (by omega)
    have hr := ih (a := a + 1) (fun x hx hx' => h x (by omega) (by omega))
    simp [readBytes, h0, hr]

/-- If the reads succeed, they give one byte per address, each as the port answers it. -/
theorem readBytes_ok {s : State} {a n : Nat} {B : List Byte} (h : readBytes s a n = .ok B) :
    B.length = n ∧ ∀ k (hk : k < B.length), portRead s (a + k) = some B[k] := by
  induction n generalizing a B with
  | zero =>
    cases h
    exact ⟨rfl, fun k hk => absurd hk (by simp)⟩
  | succ n ih =>
    unfold readBytes at h
    split at h
    · cases h
    · rename_i b hb
      split at h
      · cases h
      · rename_i bs hbs
        cases h
        obtain ⟨hl, hk⟩ := ih hbs
        refine ⟨by simp [hl], fun k hk' => ?_⟩
        cases k with
        | zero => simpa using hb
        | succ k =>
          have := hk k (by simpa using hk')
          simpa [Nat.add_assoc, Nat.add_comm 1 k] using this

/-- If the port answers every byte of the range, the reads succeed with those bytes. -/
theorem readBytes_of_bytes {s : State} {a : Nat} {B : List Byte}
    (h : ∀ k (hk : k < B.length), portRead s (a + k) = some B[k]) : readBytes s a B.length = .ok B := by
  induction B generalizing a with
  | nil => rfl
  | cons b bs ih =>
    have h0 : portRead s a = some b := h 0 (Nat.succ_pos _)
    have hr := ih (a := a + 1) (fun k hk => by
      have := h (k + 1) (by simpa using hk)
      simpa [Nat.add_assoc, Nat.add_comm 1 k] using this)
    simp [readBytes, h0, hr]

/-- If the reads fail, they name an address of the range that is not readable. -/
theorem readBytes_error {s : State} {a n : Nat} {e : Abnormal} (h : readBytes s a n = .error e) :
    ∃ x, e = .readFault x ∧ a ≤ x ∧ x < a + n ∧ portRead s x = none := by
  induction n generalizing a with
  | zero => cases h
  | succ n ih =>
    unfold readBytes at h
    split at h
    · rename_i hb
      cases h
      exact ⟨a, rfl, Nat.le_refl _, by omega, hb⟩
    · split at h
      · rename_i e' he
        cases h
        obtain ⟨x, hx, hl, hr, hp⟩ := ih he
        exact ⟨x, hx, by omega, by omega, hp⟩
      · cases h

/-- Under the host's duty the port answers the bytes of the buffer. -/
theorem HostDuty.portAnswers {c : Args} {s : State} {B : List Byte} (h : HostDuty c s B) :
    PortAnswers s c.operand.toNat B := by
  obtain ⟨_, hl, hb, hn⟩ := h
  intro k hk
  rw [portRead_of_noRace (hn _ (by omega) (by omega)), if_pos (hb k hk).1, (hb k hk).2]

/-- An address of the range that is not readable makes the reads fail. -/
theorem readBytes_unreadable {s : State} {a n x : Nat} (hl : a ≤ x) (hr : x < a + n) (hp : portRead s x = none) :
    ∃ y, readBytes s a n = .error (.readFault y) := by
  cases h : readBytes s a n with
  | error e =>
    obtain ⟨y, rfl, _⟩ := readBytes_error h
    exact ⟨y, rfl⟩
  | ok B =>
    obtain ⟨hl', hk⟩ := readBytes_ok h
    have := hk (x - a) (by omega)
    rw [Nat.add_sub_cancel' hl, hp] at this
    cases this

/-! ## Undefined launches -/

/-- A region meets a range exactly where some address lies in both. -/
theorem Region.meets_iff (r : Region) (base n : Nat) :
    r.meets base n = true ↔ ∃ a, (r.base ≤ a ∧ a < r.base + r.size) ∧ base ≤ a ∧ a < base + n := by
  unfold Region.meets
  rw [decide_eq_true_iff]
  constructor
  · intro h; exact ⟨max r.base base, by omega⟩
  · rintro ⟨a, h⟩; omega

/-- The launches that are not refused are the defined ones. -/
theorem launchRefusal_eq_none (c : Args) (s : State) : launchRefusal c s = none ↔ DefinedLaunch c s := by
  unfold launchRefusal DefinedLaunch bufferBase bufferLength
  cases hm : c.len.msb
  · by_cases hw : 2 ^ 64 < c.operand.toNat + c.len.toNat
    · rw [if_neg Bool.false_ne_true, if_pos hw]
      exact ⟨fun h => (by cases h), fun h => absurd h.2.1 (Nat.not_le_of_lt hw)⟩
    · rw [if_neg Bool.false_ne_true, if_neg hw]
      by_cases hd : s.sideEffecting.any (fun r => r.meets c.operand.toNat c.len.toNat) = true
      · rw [if_pos hd]
        obtain ⟨r, hr, hm⟩ := List.any_eq_true.mp hd
        obtain ⟨a, ha, hb⟩ := (Region.meets_iff _ _ _).mp hm
        exact ⟨fun h => (by cases h), fun h => absurd ha (h.2.2 r hr a hb.1 hb.2)⟩
      · rw [if_neg hd]
        refine ⟨fun _ => ⟨rfl, Nat.le_of_not_lt hw, fun r hr a h1 h2 hin => hd ?_⟩, fun _ => rfl⟩
        exact List.any_eq_true.mpr ⟨r, hr, (Region.meets_iff _ _ _).mpr ⟨a, hin, h1, h2⟩⟩
  · rw [if_pos rfl]
    exact ⟨fun h => (by cases h), fun h => absurd h.1 (by decide)⟩

/-! ## The host's turns -/

/-- What one turn can be while the block is Idle: the host has nothing to do or waits, presents, writes, or resets. -/
theorem idleTurn_cases (s : State) :
    idleTurn s = s ∨
    (∃ d ch rest d', s.inbox = .present d ch :: rest ∧ presented s.responses d ch = some d' ∧
      idleTurn s = accept d' { s with inbox := rest }) ∨
    (∃ a b rest, s.inbox = .write a b :: rest ∧ idleTurn s = hostWrite a b { s with inbox := rest }) ∨
    (∃ rest, s.inbox = .reset :: rest ∧ idleTurn s = resetTurn s) := by
  unfold idleTurn
  split
  · rename_i d ch rest h
    split
    · rename_i d' hd; exact .inr (.inl ⟨d, ch, rest, d', h, hd, rfl⟩)
    · exact .inl rfl
  · rename_i a b rest h; exact .inr (.inr (.inl ⟨a, b, rest, h, rfl⟩))
  · rename_i rest h; exact .inr (.inr (.inr ⟨rest, h, rfl⟩))
  · exact .inl rfl
  · exact .inl rfl
  · exact .inl rfl

/-- What one turn can be while a command is in flight: the host waits, or a write races, or reset. -/
theorem flightTurn_cases (s : State) :
    flightTurn s = s ∨
    (∃ a b rest, s.inbox = .write a b :: rest ∧ flightTurn s = racingWrite a b { s with inbox := rest }) ∨
    (∃ rest, s.inbox = .reset :: rest ∧ flightTurn s = resetTurn s) := by
  unfold flightTurn
  split
  · rename_i a b rest h; exact .inr (.inl ⟨a, b, rest, h, rfl⟩)
  · rename_i rest h; exact .inr (.inr ⟨rest, h, rfl⟩)
  all_goals exact .inl rfl

/-- The host does not wait: it is about to write or to assert reset. -/
theorem hostWaits_eq_false {s : State} (h : hostWaits s = false) :
    (∃ a b rest, s.inbox = .write a b :: rest) ∨ ∃ rest, s.inbox = .reset :: rest := by
  unfold hostWaits at h
  split at h
  · rename_i x rest hx
    cases x with
    | write a b => exact .inl ⟨a, b, rest, hx⟩
    | reset => exact .inr ⟨rest, hx⟩
    | present d c => cases h
    | take => cases h
    | await => cases h
  · cases h

/-- What one turn can be while a response waits: the host waits, goes on, takes it, writes, or resets. -/
theorem doneTurn_cases (r : Response) (s : State) :
    doneTurn r s = s ∨
    (∃ rest, s.inbox = .await :: rest ∧ doneTurn r s = { s with inbox := rest }) ∨
    (∃ rest, s.inbox = .take :: rest ∧ doneTurn r s = takeResponse r { s with inbox := rest }) ∨
    (∃ a b rest, s.inbox = .write a b :: rest ∧ doneTurn r s = hostWrite a b { s with inbox := rest }) ∨
    (∃ rest, s.inbox = .reset :: rest ∧ doneTurn r s = resetTurn s) := by
  unfold doneTurn
  split
  · rename_i rest h; exact .inr (.inr (.inl ⟨rest, h, rfl⟩))
  · rename_i a b rest h; exact .inr (.inr (.inr (.inl ⟨a, b, rest, h, rfl⟩)))
  · rename_i rest h; exact .inr (.inl ⟨rest, h, rfl⟩)
  · rename_i rest h; exact .inr (.inr (.inr (.inr ⟨rest, h, rfl⟩)))
  · exact .inl rfl
  · exact .inl rfl

end Sys2Proof.Machine
end

