-- ==== Sys2Proof/Laws/Exec.lean ====
section
/-! SUPPORT. What a command can do, said once: the two shared operations, `exec` over them, and the step. -/

namespace Sys2Proof.Machine

/-- A scalar command always answers, in one of three ways. -/
theorem scalarCommand_cases (core : Word64 → Word32 → Working → Working) (digest : Working → Word64) (seeded : Bool)
    (c : Args) (s : State) :
    (∃ k, c.vtype = .reserved k ∧
      scalarCommand core digest seeded c s = .next (takeAbnormal .illegalDescriptor s)) ∨
    (∃ t, c.vtype = .scalar t ∧ gateOpen seeded c = true ∧
      scalarCommand core digest seeded c s =
        .next (respond { status := .ok, digest := digest (core (toBits t c.operand) (effectiveSeed seeded c) s.work) }
          (core (toBits t c.operand) (effectiveSeed seeded c) s.work) s)) ∨
    (∃ t, c.vtype = .scalar t ∧ gateOpen seeded c = false ∧
      scalarCommand core digest seeded c s = .next (takeSentinel s)) := by
  unfold scalarCommand
  split
  · rename_i k hk; exact .inl ⟨k, hk, rfl⟩
  · rename_i t ht
    cases hg : gateOpen seeded c
    · exact .inr (.inr ⟨t, ht, rfl, rfl⟩)
    · exact .inr (.inl ⟨t, ht, rfl, rfl⟩)

/-- A buffer command answers, or is an undefined launch. -/
theorem bufferCommand_cases (core : List Byte → Word32 → Working → Working) (digest : Working → Word64) (seeded : Bool)
    (c : Args) (s : State) :
    (gateOpen seeded c = false ∧ bufferCommand core digest seeded c s = .next (takeSentinel s)) ∨
    (gateOpen seeded c = true ∧ ∃ r, launchRefusal c s = some r ∧ bufferCommand core digest seeded c s = .refused r) ∨
    (gateOpen seeded c = true ∧ launchRefusal c s = none ∧ ∃ e,
      readBytes s (bufferBase c) (bufferLength c) = .error e ∧
      bufferCommand core digest seeded c s = .next (takeAbnormal e s)) ∨
    (gateOpen seeded c = true ∧ launchRefusal c s = none ∧ ∃ B,
      readBytes s (bufferBase c) (bufferLength c) = .ok B ∧
      bufferCommand core digest seeded c s =
        .next (respond { status := .ok, digest := digest (core B (effectiveSeed seeded c) s.work) }
          (core B (effectiveSeed seeded c) s.work) s)) := by
  unfold bufferCommand
  cases hg : gateOpen seeded c
  · exact .inl ⟨rfl, rfl⟩
  · cases hl : launchRefusal c s with
    | some r => exact .inr (.inl ⟨rfl, r, rfl, rfl⟩)
    | none =>
      cases hr : readBytes s (bufferBase c) (bufferLength c) with
      | error e => exact .inr (.inr (.inl ⟨rfl, rfl, e, rfl, by simp⟩))
      | ok B => exact .inr (.inr (.inr ⟨rfl, rfl, B, rfl, by simp⟩))

/-- Every scalar command is the shared scalar operation, at the axes of its OP. -/
theorem exec_scalar {i : Instr} (s : State) (h : i.buffer = false) :
    exec i s = scalarCommand (if i.wide = true then runHash64 else runHash32)
      (if i.wide = true then digest64 else digest32) i.seeded i.args s := by
  cases i <;> first | rfl | cases h

/-- Every buffer command is the shared buffer operation, at the axes of its OP. -/
theorem exec_buffer {i : Instr} (s : State) (h : i.buffer = true) :
    exec i s = bufferCommand (if i.wide = true then runHash64Buf else runHash32Buf)
      (if i.wide = true then digest64 else digest32) i.seeded i.args s := by
  cases i <;> first | rfl | cases h

/-- A command that answers leaves `respond` of some response and some working registers. -/
theorem exec_next {i : Instr} {s t : State} (h : exec i s = .next t) : ∃ r w, t = respond r w s := by
  have scalar : ∀ core digest seeded c, scalarCommand core digest seeded c s = .next t → ∃ r w, t = respond r w s := by
    intro core digest seeded c h
    rcases scalarCommand_cases core digest seeded c s with ⟨_, _, e⟩ | ⟨_, _, _, e⟩ | ⟨_, _, _, e⟩ <;>
      (rw [e] at h; cases h; exact ⟨_, _, rfl⟩)
  have buffer : ∀ core digest seeded c, bufferCommand core digest seeded c s = .next t → ∃ r w, t = respond r w s := by
    intro core digest seeded c h
    rcases bufferCommand_cases core digest seeded c s with ⟨_, e⟩ | ⟨_, _, _, e⟩ | ⟨_, _, _, _, e⟩ | ⟨_, _, _, _, e⟩ <;>
      rw [e] at h <;> cases h <;> exact ⟨_, _, rfl⟩
  cases i
  · exact scalar _ _ _ _ h
  · exact scalar _ _ _ _ h
  · exact scalar _ _ _ _ h
  · exact scalar _ _ _ _ h
  · exact buffer _ _ _ _ h
  · exact buffer _ _ _ _ h
  · exact buffer _ _ _ _ h
  · exact buffer _ _ _ _ h

/-- What a step that answers can be: the host's turn, what the host does during a command, or the end of a command. -/
theorem step_next {s t : State} (h : step s = .next t) :
    (s.control = .idle ∧ t = idleTurn s) ∨
    (∃ r, s.control = .done r ∧ t = doneTurn r s) ∨
    (∃ d, s.control = .busy d ∧ hostWaits s = false ∧ t = flightTurn s) ∨
    (∃ d r w, s.control = .busy d ∧ hostWaits s = true ∧ t = respond r w s) := by
  unfold step at h
  split at h
  · rename_i hc; cases h; exact .inl ⟨hc, rfl⟩
  · rename_i r hc; cases h; exact .inr (.inl ⟨r, hc, rfl⟩)
  · rename_i d hc
    split at h
    · rename_i hw
      split at h
      · obtain ⟨r, w, e⟩ := exec_next h
        exact .inr (.inr (.inr ⟨d, r, w, hc, hw, e⟩))
      · cases h
        exact .inr (.inr (.inr ⟨d, _, _, hc, hw, rfl⟩))
    · rename_i hw
      cases h
      exact .inr (.inr (.inl ⟨d, hc, by simpa using hw, rfl⟩))

end Sys2Proof.Machine
end

