-- ==== Sys2Proof/Laws/PerInstr.lean ====
section
/-! SUPPORT. Per-instruction statements about the syntax: the fixed fields of every command's descriptor
(30_encoding.md R61, R71). -/

namespace Sys2Proof.Laws.FixedFields

/-- The descriptor of the command has its OP in `CTRL[3:0]` and zeros in `CTRL[31:10]`. -/
def Statement (i : Instr) : Prop :=
  ctrlOp (Descriptor.ctrl (encode i)) = i.op ∧ ctrlReserved (Descriptor.ctrl (encode i)) = 0

/-- The control word is the low part of a descriptor. -/
theorem ctrl_encode (i : Instr) : Descriptor.ctrl (encode i) = encodeCtrl i.op i.args := by
  unfold Descriptor.ctrl encode
  exact BitVec.extractLsb'_append_eq_right

/-- The fixed fields of a control word. -/
theorem fixed_encodeCtrl (op : BitVec 4) (c : Args) :
    ctrlOp (encodeCtrl op c) = op ∧ ctrlReserved (encodeCtrl op c) = 0 := by
  unfold ctrlOp ctrlReserved encodeCtrl
  constructor
  · exact BitVec.extractLsb'_append_eq_right
  · ext j hj
    rw [BitVec.getElem_extractLsb']
    iterate 4 rw [BitVec.getLsbD_append]
    rw [if_neg (by omega), if_neg (by omega), if_neg (by omega), if_neg (by omega)]
    simp

/-- The statement for any command, from the two lemmas. -/
theorem fixed (i : Instr) : Statement i := by
  unfold Statement
  rw [ctrl_encode]
  exact fixed_encodeCtrl _ _

theorem hashValue32 (c : Args) : Statement (.hashValue32 c) := fixed _
theorem hashValue32Seeded (c : Args) : Statement (.hashValue32Seeded c) := fixed _
theorem hashValue64 (c : Args) : Statement (.hashValue64 c) := fixed _
theorem hashValue64Seeded (c : Args) : Statement (.hashValue64Seeded c) := fixed _
theorem hashBuf32 (c : Args) : Statement (.hashBuf32 c) := fixed _
theorem hashBuf32Seeded (c : Args) : Statement (.hashBuf32Seeded c) := fixed _
theorem hashBuf64 (c : Args) : Statement (.hashBuf64 c) := fixed _
theorem hashBuf64Seeded (c : Args) : Statement (.hashBuf64Seeded c) := fixed _

end Sys2Proof.Laws.FixedFields
end

