-- ==== Sys2Proof/Tests/Slice0.lean ====
section
/-! SUPPORT. Tests on fixed values, each expected result from the spec: 95_test_vectors.md (V-…), the worked examples of
43_null_seed_contract.md, the tables of 30_encoding.md. And, for every statement of Certificates/Slice0/Obligations.lean
with hypotheses, a witness `witness_…` that meets them. -/

namespace Sys2Proof.Tests

open Sys2Proof Sys2Proof.Machine

/-! ## States -/

/-- `"hello"` at 0x1000 to 0x1004, readable exactly there (95 section 6). -/
def hello : List Byte := [0x68, 0x65, 0x6c, 0x6c, 0x6f]

def helloMem : Memory := [(0x1000, 0x68), (0x1001, 0x65), (0x1002, 0x6c), (0x1003, 0x6c), (0x1004, 0x6f)]

/-- The block idle, the host about to do `inbox`; no address but those five is readable. -/
def idleWith (inbox : List HostAction) : State :=
  { State.reset with mem := helloMem, readable := [⟨0x1000, 5⟩], inbox := inbox }

/-- The command with descriptor `d` in flight, the host about to do `inbox`. -/
def busyWith (d : Descriptor) (inbox : List HostAction) : State :=
  { idleWith inbox with control := .busy d }

/-- A response waiting, the host about to do `inbox`. -/
def doneWith (r : Response) (inbox : List HostAction) : State :=
  { idleWith inbox with control := .done r }

/-- What the host sees of the response to `d`, with `"hello"` in memory. -/
def answer (d : Descriptor) : Option (Status × Option Word64) :=
  outcomeSeen (step (busyWith d []))

/-- The name under which a step is refused. -/
def refusal : Host.Outcome State Fault Refusal → Option Refusal
  | .refused r => some r
  | _ => none

/-- Fields of a command: VTYPE FLOAT64, LEN `len`, PTR or VALUE `operand`, SEED `seed`. -/
def fields (valid seedValid : Bool) (len : Word32) (operand seed : Word64) : Args :=
  { vtype := .scalar .float64, valid := valid, seedValid := seedValid, len := len, operand := operand, seed := seed }

/-! ## Well-formedness: a scalar command with a reserved VTYPE has no legal descriptor (30_encoding.md R72 (c)) -/

def reservedType : Args :=
  { vtype := .reserved 0, valid := true, seedValid := true, len := 0, operand := 5, seed := 0 }

theorem test_wf_hashValue32 : (Instr.hashValue32 reservedType).wf = false := by decide
theorem test_wf_hashValue32Seeded : (Instr.hashValue32Seeded reservedType).wf = false := by decide
theorem test_wf_hashValue64 : (Instr.hashValue64 reservedType).wf = false := by decide
theorem test_wf_hashValue64Seeded : (Instr.hashValue64Seeded reservedType).wf = false := by decide
theorem test_wf_scalar_legal : (Instr.hashValue32 (fields true false 0 5 0)).wf = true := by decide
/-- A buffer command ignores VTYPE (30_encoding.md R69). -/
theorem test_wf_buffer_reserved : (Instr.hashBuf32 reservedType).wf = true := by decide

/-! ## Decoding: a word written out from the encoding tables for every command (30_encoding.md R60 to R63, R71) -/

/-- SEED, OPERAND, LEN, then CTRL: 22 zeros, SEED_VALID, VALID, VTYPE (INT32 = 4), OP. -/
def word (seedValid valid : BitVec 1) (op : BitVec 4) : Descriptor :=
  0x1122334455667788#64 ++ 0x99aabbccddeeff00#64 ++ 0x01020304#32 ++ (0#22 ++ seedValid ++ valid ++ 0b0100#4 ++ op)

def wordArgs (valid seedValid : Bool) : Args :=
  { vtype := .scalar .int32, valid := valid, seedValid := seedValid, len := 0x01020304, operand := 0x99aabbccddeeff00,
    seed := 0x1122334455667788 }

theorem test_decode_hashValue32 : decode (word 0 1 0b0000) = .ok (.hashValue32 (wordArgs true false)) := by decide
theorem test_decode_hashValue32Seeded :
    decode (word 1 0 0b0001) = .ok (.hashValue32Seeded (wordArgs false true)) := by decide
theorem test_decode_hashValue64 : decode (word 0 0 0b0010) = .ok (.hashValue64 (wordArgs false false)) := by decide
theorem test_decode_hashValue64Seeded :
    decode (word 1 1 0b0011) = .ok (.hashValue64Seeded (wordArgs true true)) := by decide
theorem test_decode_hashBuf32 : decode (word 0 1 0b0100) = .ok (.hashBuf32 (wordArgs true false)) := by decide
theorem test_decode_hashBuf32Seeded :
    decode (word 1 1 0b0101) = .ok (.hashBuf32Seeded (wordArgs true true)) := by decide
theorem test_decode_hashBuf64 : decode (word 1 0 0b0110) = .ok (.hashBuf64 (wordArgs false true)) := by decide
theorem test_decode_hashBuf64Seeded :
    decode (word 1 1 0b0111) = .ok (.hashBuf64Seeded (wordArgs true true)) := by decide

/-- Every VTYPE code of 30_encoding.md R63, in order. -/
theorem test_decode_vtype_codes :
    (List.range 16).map (fun n => VType.ofCode (BitVec.ofNat 4 n)) =
      [.scalar .float64, .scalar .float32, .scalar .int8, .scalar .int16, .scalar .int32, .scalar .int64, .scalar .uint8,
        .scalar .uint16, .scalar .uint32, .scalar .uint64, .scalar .bool, .reserved 0, .reserved 1, .reserved 2,
        .reserved 3, .reserved 4] := by decide

/-- V-X1: `OP = 8`, `OP = 15`, VTYPE 11 and 15 in a scalar, CTRL[10], CTRL[31]. -/
theorem test_decode_refuses :
    decode 0x108#192 = .error .reservedOp ∧ decode 0x00f#192 = .error .reservedOp ∧
      decode 0x0000000000000000000000000000000500000000000001b0#192 = .error .reservedType ∧
      decode 0x0000000000000000000000000000000500000000000003f3#192 = .error .reservedType ∧
      decode 0x000000000000000000000000000000050000000000000500#192 = .error .reservedBits ∧
      decode 0x000000000000000000000000000010000000000580000104#192 = .error .reservedBits := by decide

/-- P1 line 2, `hashValue32.f64 1.5, 1, $1, 1`. -/
theorem test_encode :
    encode (.hashValue32Seeded (fields true true 0 0x3ff8000000000000 0xffffffffb228267d)) =
      0xffffffffb228267d3ff80000000000000000000000000301#192 := by decide

/-- The opcode table's words run as the first command after reset. -/
theorem test_withFetchWord :
    outcomeSeen (step (State.reset.withFetchWord 192 0x000000000000000000000000000000050000000000000140)) =
      some (.ok, some 0xffffffffb228267d) := by decide

/-- STATUS in `RSP[65:64]`, DIGEST below, zeros above (30_encoding.md R75): OK, READ_FAULT, ILLEGAL_DESCRIPTOR. -/
theorem test_response_bits :
    Response.bits ⟨.ok, 0xffffffffb228267d⟩ = 0x00000000ffffffffb228267d#96 ∧
      Response.bits ⟨.readFault, 5⟩ = 0x000000020000000000000005#96 ∧
      Response.bits ⟨.illegalDescriptor, 5⟩ = 0x000000010000000000000005#96 := by decide

/-! ## Primitives (95 section 2) -/

theorem test_rotl : rotl32 0x12345678 15 = 0x2b3c091a ∧ rotl64 0x0123456789abcdef 33 = 0x13579bde02468acf := by decide
theorem test_fmix : fmix32 0xdeadbeef = 0x0de5c6a9 ∧ fmix64 0x8000000000000000 = 0x8f780810af31a493 := by decide
theorem test_round32 : kmix32 0x40140000 = 0xdc51c91e ∧ round32 0xe6546b64 0x40140000 = 0x6be0cfa4 := by decide
theorem test_kmix64 : k1mix 0x71 = 0x5a356ea551bcc87c ∧ k2mix 0x71 = 0x140f164206ec6ce8 := by decide
theorem test_block64 : block64 0 0 1 1 = (0xc8dad7b91b1fffb1, 0xf1919f59834abe77) := by decide
theorem test_final : final64 1 2 3 = 0x52e1862db2e8f143 ∧ final32 0x9caf3fb3 5 = 0x248bfa47 := by decide

/-! ## Operand conversion (V-C1 to V-C4) -/

theorem test_toBits_signed :
    toBits .int8 0xff05 = 0x4014000000000000 ∧ toBits .int16 0x8000 = 0xc0e0000000000000 ∧
      toBits .int32 0xffffff05 = 0xc06f600000000000 ∧ toBits .int64 0xffdfffffffffffff = 0xc340000000000000 := by decide
theorem test_toBits_unsigned :
    toBits .uint8 0x1ff = 0x406fe00000000000 ∧ toBits .uint16 0xffff = 0x40efffe000000000 ∧
      toBits .uint32 0xffffffff = 0x41efffffffe00000 ∧ toBits .uint64 0xffffffffffffffff = 0x43f0000000000000 := by decide
theorem test_toBits_ties :
    toBits .int64 0x0020000000000001 = 0x4340000000000000 ∧ toBits .int64 0x0020000000000003 = 0x4340000000000002 ∧
      toBits .uint64 0xfffffffffffffbff = 0x43efffffffffffff ∧ toBits .uint64 0x8000000000000401 = 0x43e0000000000001 := by
  decide
theorem test_toBits_float32 :
    toBits .float32 0xc0a00000 = 0xc014000000000000 ∧ toBits .float32 0x80000001 = 0xb6a0000000000000 ∧
      toBits .float32 0x007fffff = 0x380fffffc0000000 ∧ toBits .float32 0xff800000 = 0xfff0000000000000 := by decide
theorem test_toBits_float64_bool :
    toBits .float64 0x7ff0000000000001 = 0x7ff0000000000001 ∧ toBits .bool 3 = 0x3ff0000000000000 ∧
      toBits .bool 0xfffffffffffffffe = 0 := by decide

/-! ## The cores (V-F1, V-F2, V-B1, V-B2) -/

/-- `abcdefghijklmnopq`. -/
def letters : List Byte :=
  [0x61, 0x62, 0x63, 0x64, 0x65, 0x66, 0x67, 0x68, 0x69, 0x6a, 0x6b, 0x6c, 0x6d, 0x6e, 0x6f, 0x70, 0x71]

theorem test_core_hash32 : coreHash32 0xffffffff00000000 12345 = 0x018be650 := by decide
theorem test_core_hash64 : coreHash64 0x4014000000000000 0x80000000 = 0x8b95b90a120cf76b := by decide
theorem test_core_hash32Buf :
    coreHash32Buf (letters.take 7) 12345 = 0x24202ab5 ∧ coreHash32Buf [0xff, 0xfe, 0xfd] 0 = 0xd2bef2dc := by decide
theorem test_core_hash64Buf_tail : coreHash64Buf (letters.take 15) 0xffffffff = 0x33b77a72200c9c46 := by decide
theorem test_core_hash64Buf_block : coreHash64Buf letters 0 = 0x7564747f88bda657 := by decide

/-! ## The commands (V-N1, V-N2, V-X1 to V-X3) -/

/-- Unseeded: SEED, SEED_VALID and LEN are ignored. -/
theorem test_hashValue32 :
    answer 0xdeadbeefdeadbeef00000000000000057fffffff00000340#192 = some (.ok, some 0xffffffffb228267d) := by decide
theorem test_hashValue32_bool :
    answer 0x0000000000000000000000000000000100000000000001a0#192 = some (.ok, some 0xfffffffff783608f) := by decide
theorem test_hashValue32Seeded :
    answer 0x00000000ffffffff00000000000000050000000000000321#192 = some (.ok, some 0x60e60aaf) := by decide
theorem test_hashValue32Seeded_nullSeed :
    answer 0x000000000000303900000000000000050000000000000141#192 = some (.ok, some 0) := by decide
theorem test_hashValue64 :
    answer 0x00000000000000000000000040a000000000000000000112#192 = some (.ok, some 0x04d11642a438a348) := by decide
theorem test_hashValue64_rounding :
    answer 0x000000000000000000200000000000010000000000000152#192 = some (.ok, some 0x8e487f045fb2c5d8) := by decide
/-- The low 32 bits of SEED, sign-extended. -/
theorem test_hashValue64Seeded :
    answer 0x000000008000000040140000000000000000000000000303#192 = some (.ok, some 0x8b95b90a120cf76b) := by decide
/-- P2 line 2: a null FLOAT32 NaN gives the sentinel. -/
theorem test_hashValue64Seeded_nullNaN :
    answer 0x8feaded2f2572611000000007fc000000000000000000213#192 = some (.ok, some 0) := by decide
/-- VTYPE = 11 is ignored by a buffer command. -/
theorem test_hashBuf32 :
    answer 0x0000000000000000000000000000100000000005000001b4#192 = some (.ok, some 0x248bfa47) := by decide
theorem test_hashBuf32_readFault :
    answer 0x000000000000000000000000000010000000000600000104#192 = some (.readFault, none) := by decide
theorem test_hashBuf32Seeded :
    answer 0x000000000000303900000000000010000000000500000305#192 = some (.ok, some 0x4ecaceb7) := by decide
/-- The gate closed: an unreadable byte is not read. -/
theorem test_hashBuf32Seeded_nullSeed :
    answer 0x000000000000000000000000000010000000000600000105#192 = some (.ok, some 0) := by decide
theorem test_hashBuf64 :
    answer 0x000000000000000000000000000010000000000500000106#192 = some (.ok, some 0xcbd8a7b341bd9b02) := by decide
theorem test_hashBuf64_firstByteUnreadable :
    answer 0x00000000000000000000000000000fff0000000100000106#192 = some (.readFault, none) := by decide
theorem test_hashBuf64Seeded :
    answer 0x000000000000303900000000000010000000000500000307#192 = some (.ok, some 0xf20ad585f4ebc481) := by decide
/-- LEN = 0 ignores PTR and reads nothing. -/
theorem test_hashBuf64Seeded_empty :
    answer 0x000000000000303900000000000010000000000000000307#192 = some (.ok, some 0x230e8369e0320eaf) := by decide
/-- V-X1: illegal beats the sentinel. -/
theorem test_illegal : answer 0x00f#192 = some (.illegalDescriptor, none) := by decide
/-- V-X3: undefined launches, and the first of them with the gate closed. -/
theorem test_refused :
    refusal (step (busyWith 0x00000000000000000000000000001000ffffffff00000104#192 [])) = some .negativeLength ∧
      refusal (step (busyWith 0x0000000000000000ffffffffffffffff0000000200000104#192 [])) = some .rangeWraps ∧
      answer 0x00000000000000000000000000001000ffffffff00000004#192 = some (.ok, some 0) := by decide
/-- P1: line 2's SEED is line 1's whole DIGEST (seed chaining, 70_reset_and_hazards.md R192). -/
theorem test_chain :
    presented [⟨.ok, 0xffffffffb228267d⟩] 0x3ff80000000000000000000000000301#192 (some 1) =
      some 0xffffffffb228267d3ff80000000000000000000000000301#192 := by decide
/-- A memory write keeps the list sorted, and one of the byte an unlisted address holds removes the entry. -/
theorem test_write :
    Memory.write (Memory.write [(2, 7), (5, 9)] 3 1) 5 0 = [(2, 7), (3, 1)] ∧
      Memory.write [(2, 7), (5, 9)] 5 1 = [(2, 7), (5, 1)] := by decide
/-- A write does not make an address readable (20_memory.md R43): 0x1005 written, then read by the command. -/
theorem test_write_unreadable :
    (match step (idleWith [.write 0x1005 0x21]) with
      | .next t => outcomeSeen (step { t with control := .busy 0x000000000000000000000000000010000000000600000104#192 })
      | _ => none) = some (.readFault, none) := by decide
/-- A write that the host makes once the response is available races with nothing (20_memory.md R52 (a)). -/
theorem test_write_after_await :
    hostWaits (busyWith 0x000000000000000000000000000010000000000500000104#192 [.await, .write 0x1000 0, .take]) = true ∧
      outcomeSeen (step (busyWith 0x000000000000000000000000000010000000000500000104#192
        [.await, .write 0x1000 0, .take])) = some (.ok, some 0x248bfa47) := by decide
/-- P1 line 2 as a line (30_encoding.md R78): `hashValue32.f64 1.5, 1, $1, 1`. -/
theorem test_asm :
    asmActions (.hashValue32 .float64 (.raw 0x3ff8000000000000) true (some (.digestOf 1, true))) =
      [.present 0x3ff80000000000000000000000000301#192 (some 1), .take] := by decide

/-! ## Witnesses for the hypotheses of the statements -/

/-- `hashBuf32 0x1000, 5, 1` (V-N2). -/
def dBuf : Descriptor := 0x000000000000000000000000000010000000000500000104#192
def cBuf : Args := fields true true 5 0x1000 12345
/-- Six bytes: 0x1005 is not readable (V-X2). -/
def cBuf6 : Args := fields true true 6 0x1000 12345

theorem witness_StepRunsTheDecodedCommand :
    (busyWith dBuf []).control = .busy dBuf ∧ hostWaits (busyWith dBuf []) = true ∧
      decode dBuf = .ok (.hashBuf32 (fields true false 5 0x1000 0)) := by decide
theorem witness_DecodeInvertsEncode : (Instr.hashValue32 (fields true false 0 5 0)).wf = true := by decide
theorem witness_EncodeInvertsDecode : decode dBuf = .ok (.hashBuf32 (fields true false 5 0x1000 0)) := by decide
theorem witness_IllegalDescriptors :
    (0x80000104#192).getLsbD 31 = true ∧ (0x500#192).getLsbD 10 = true ∧ (0x00f#192).getLsbD 3 = true ∧
      (0x1b0#192).getLsbD 2 = false ∧ 11 ≤ ((0x1b0#192).extractLsb' 4 4).toNat := by decide
/-- OP 0 with VTYPE 10, and OP 7 with VTYPE 15. -/
theorem witness_OpcodeMapByMaskAndMatch :
    ((0x1a0#192).extractLsb' 0 32 &&& 0xFFFFFC0F#32 = BitVec.ofNat 32 0 ∧ ((0x1a0#192).extractLsb' 4 4).toNat ≤ 10) ∧
      ((0x3f7#192).extractLsb' 0 32 &&& 0xFFFFFC0F#32 = BitVec.ofNat 32 7 ∧ ¬ (7 < 4)) := by decide
theorem witness_OpBitsSelectTheThreeAxes :
    decode 0x3f7#192 = .ok (.hashBuf64Seeded ⟨.reserved 4, true, true, 0, 0, 0⟩) := by decide
/-- r = 1 and r = W - 1, bit 0 and bit W - 1. -/
theorem witness_RotationsMoveEachBit :
    (rotl32 1 1).getLsbD 1 = true ∧ (rotl32 1 31).getLsbD 31 = true ∧ (rotl32 0x80000000 1).getLsbD 0 = true ∧
      (rotl64 1 63).getLsbD 63 = true ∧ (rotl64 0x8000000000000000 1).getLsbD 0 = true := by decide
/-- V-F3: `fmix32(0xffe13275)`, step by step. -/
theorem witness_PrimitivesFollowTheirListings :
    (0xffe13275#32 ^^^ 0xffe13275#32 >>> 16 = 0xffe1cd94) ∧ fmix32 0xffe13275 = 0x21e3af96 ∧
      block64 0 0 0 0 = (0x52dce729, 0x1d699de82) ∧ final64 0 0 8 = 0x28df63b7cc57c3cb := by decide
theorem witness_WordsAreLittleEndian :
    8 * [0x68, 0x65, 0x6c, (0x6c : Byte)].length ≤ 32 ∧ leWord 32 [0x68, 0x65, 0x6c, 0x6c] = 0x6c6c6568 ∧
      8 * ([] : List Byte).length ≤ 0 := by decide
/-- A FLOAT32 operand with bits above 32 set, and the most negative INT64 and the greatest UINT64 (V-C1, V-C2, V-C3). -/
theorem witness_ScalarsGoThroughTheirConversions :
    integerValue .int64 0x8000000000000000 = some (-2 ^ 63) ∧ integerValue .uint64 0xffffffffffffffff = some (2 ^ 64 - 1) ∧
      integerValue .int8 0xff05 = some 5 ∧ integerValue .int16 0 = some 0 ∧ integerValue .bool 3 = some 1 ∧
      toBits .float32 0xffffffffc0a00000 = 0xc014000000000000 := by decide
/-- Magnitudes 1 and 2^53 - 1, the ends of the exact range. -/
theorem witness_SmallIntegersConvertExactly :
    intToF64 true 1 = 0xbff0000000000000 ∧ doubleExponent (intToF64 true 1) = 1023 ∧
      intToF64 false (2 ^ 53 - 1) = 0x433fffffffffffff ∧ doubleExponent (intToF64 false (2 ^ 53 - 1)) = 1075 ∧
      intToF64 true 0 = 0 := by decide
/-- Magnitudes 2^53 and 2^64 - 1, the ends of the rounded range; and 2^53 + 1, equally near to 2^53 and to
(2^52 + 1) * 2, of which the even significand is chosen. -/
theorem witness_LargeIntegersRoundToNearestEven :
    doubleExponent (intToF64 true (2 ^ 53)) = 1076 ∧ doubleExponent (intToF64 false (2 ^ 64 - 1)) = 1087 ∧
      doubleFraction (intToF64 false (2 ^ 53 + 1)) % 2 = 0 ∧ 2 ^ 52 + 1 < 2 ^ 53 ∧
      |((2 ^ 52 + 1 : Nat) : Int) * 2 ^ 1 - (2 ^ 53 + 1 : Nat)| = |(2 ^ 53 : Int) - (2 ^ 53 + 1 : Nat)| := by decide
/-- A zero, an infinity, the least subnormal, the greatest subnormal, the least normal, the greatest finite number. -/
theorem witness_Float32WidensExactly :
    (singleExponent 0x80000000 = 0 ∧ singleFraction 0x80000000 = 0) ∧
      (singleExponent 0xff800000 = 255 ∧ singleFraction 0xff800000 = 0) ∧
      (singleExponent 1 = 0 ∧ singleFraction 1 ≠ 0) ∧ (singleExponent 0x007fffff = 0 ∧ singleFraction 0x007fffff ≠ 0) ∧
      singleExponent 0x00800000 = 1 ∧ singleExponent 0x7f7fffff = 254 := by decide
/-- `0x7f800001` and `0xffc00000` (V-C3); as doubles `0x7ff0000000000001` (V-C4) and all ones. -/
theorem witness_NaNsWidenToNaNs :
    (singleExponent 0x7f800001 = 255 ∧ singleFraction 0x7f800001 ≠ 0) ∧
      (singleExponent 0xffc00000 = 255 ∧ singleFraction 0xffc00000 ≠ 0) ∧
      (doubleExponent 0x7ff0000000000001 = 2047 ∧ doubleFraction 0x7ff0000000000001 ≠ 0) ∧
      (doubleExponent 0xffffffffffffffff = 2047 ∧ doubleFraction 0xffffffffffffffff ≠ 0) := by decide
theorem witness_EqualIntegersHaveEqualWords :
    integerValue .int8 0xff05 = some 5 ∧ integerValue .uint64 5 = some 5 ∧ integerValue .bool 3 = some 1 ∧
      integerValue .uint8 1 = some 1 ∧ integerValue .int16 0x8000 = some (-32768) ∧
      integerValue .int32 0xffff8000 = some (-32768) := by decide
theorem witness_UpperOperandBitsAreIgnored :
    (0xff05 : Word64).extractLsb' 0 (ScalarType.width .int8) = (5 : Word64).extractLsb' 0 (ScalarType.width .int8) ∧
      (3 : Word64).extractLsb' 0 (ScalarType.width .bool) = (1 : Word64).extractLsb' 0 (ScalarType.width .bool) := by decide
/-- Seven bytes: one block and a three-byte tail (V-B5). -/
theorem witness_Hash32OfABuffer :
    (List.range (7 / 4)).foldl (fun h i => round32 h (leWord 32 (((letters.take 7).drop (4 * i)).take 4))) 12345 =
      0x688d649e := by decide
/-- Seventeen bytes: one block and a one-byte tail (V-B5); nine bytes are the least with a second tail word. -/
theorem witness_Hash64OfABuffer :
    (List.range (letters.length / 16)).foldl
        (fun h i => block64 h.1 h.2 (leWord 64 ((letters.drop (16 * i)).take 8))
          (leWord 64 ((letters.drop (16 * i + 8)).take 8)))
        ((0 : Word32).signExtend 64, (0 : Word32).signExtend 64) = (0x95e9186c59c1f877, 0xd35cc0a6c2b58789) ∧
      coreHash64Buf (letters.take 9) 0 = 0x0547c0cff13c7964 ∧ coreHash64Buf (letters.take 8) 0 = 0xcc8a0ab037ef8c02 := by
  decide
theorem witness_TailWordIsTheFallthroughListing :
    (letters.take 8).length ≤ 8 ∧ leWord 64 (letters.take 8) = 0x6867666564636261 ∧ ([] : List Byte).length ≤ 8 := by
  decide

/-- The scalar statements: any scalar VTYPE meets the hypothesis. -/
theorem witness_scalar_commands : (wordArgs true true).vtype = .scalar .int32 := by decide

theorem definedLaunch_cBuf : DefinedLaunch cBuf (idleWith []) :=
  ⟨by decide, by decide, fun _ h => by cases h⟩

theorem definedLaunch_cBuf6 : DefinedLaunch cBuf6 (idleWith []) :=
  ⟨by decide, by decide, fun _ h => by cases h⟩

/-- The buffer statements: the host's duty with `"hello"`. -/
theorem witness_buffer_hostDuty :
    cBuf.valid = true ∧ cBuf.seedValid = true ∧ HostDuty cBuf (idleWith []) hello :=
  ⟨rfl, rfl, definedLaunch_cBuf, by decide, by unfold BytesAt; decide, fun _ _ _ => rfl⟩

/-- The buffer statements: the host's duty at the edges, no bytes and a range that ends at 2^64. -/
theorem witness_buffer_hostDuty_empty :
    HostDuty (fields true true 0 0xffffffffffffffff 0) (idleWith []) [] ∧
      DefinedLaunch (fields true true 1 0xffffffffffffffff 0) (idleWith []) :=
  ⟨⟨⟨by decide, by decide, fun _ h => by cases h⟩, by decide, fun _ h => absurd h (Nat.not_lt_zero _), fun _ _ _ => rfl⟩,
    by decide, by decide, fun _ h => by cases h⟩

/-- A command in flight whose first byte has been written meanwhile: `i` where `h` stood. -/
def racing : State :=
  { busyWith dBuf [] with mem := helloMem.write 0x1000 0x69, overwritten := [(0x1000, 0x68)] }

/-- The buffer statements: bytes the port answers although a write has raced at the first, whichever the first is; and no
bytes. -/
theorem witness_buffer_racing :
    cBuf.valid = true ∧ cBuf.seedValid = true ∧ DefinedLaunch cBuf racing ∧
      [portByte racing 0x1000, 0x65, 0x6c, 0x6c, 0x6f].length = cBuf.len.toNat ∧
      PortAnswers racing cBuf.operand.toNat [portByte racing 0x1000, 0x65, 0x6c, 0x6c, 0x6f] ∧
      racedBytes racing 0x1000 = [0x68] ∧ racing.mem.read 0x1000 = 0x69 ∧ PortAnswers racing 0xffffffffffffffff [] :=
  ⟨rfl, rfl, ⟨by decide, by decide, fun _ h => by cases h⟩, rfl, by
    intro k h
    have h : k = 0 ∨ k = 1 ∨ k = 2 ∨ k = 3 ∨ k = 4 := by simp at h; omega
    rcases h with rfl | rfl | rfl | rfl | rfl <;> rfl, by decide, by decide, fun _ h => absurd h (Nat.not_lt_zero _)⟩

/-- The buffer statements: an unreadable byte, the last of the range. -/
theorem witness_buffer_unreadable :
    DefinedLaunch cBuf6 (idleWith []) ∧ NoRace (idleWith []) cBuf6.operand.toNat cBuf6.len.toNat ∧
      cBuf6.operand.toNat ≤ 0x1005 ∧
      0x1005 < cBuf6.operand.toNat + cBuf6.len.toNat ∧ (idleWith []).isReadable 0x1005 = false ∧
      (idleWith []).isReadable 0x1004 = true :=
  ⟨definedLaunch_cBuf6, fun _ _ _ => rfl, by decide, by decide, by decide, by decide⟩

/-- The buffer statements: the gate closed. -/
theorem witness_buffer_closed :
    (fields false true 5 0x1000 0).valid = false ∧
      ¬ ((fields true false 5 0x1000 0).valid = true ∧ (fields true false 5 0x1000 0).seedValid = true) := by decide

theorem witness_ClosedGateGivesTheSentinel :
    ((Instr.hashValue32 (fields false true 0 5 0)).wf = true ∧
        (Instr.hashValue32 (fields false true 0 5 0)).args.valid = false) ∧
      ((Instr.hashBuf64Seeded (fields true false 0xffffffff 0 0)).wf = true ∧
        (Instr.hashBuf64Seeded (fields true false 0xffffffff 0 0)).seeded = true ∧
        (Instr.hashBuf64Seeded (fields true false 0xffffffff 0 0)).args.seedValid = false) ∧
      (Instr.hashBuf64 (fields true false 5 0 0)).seeded = false := by decide

theorem witness_NarrowDigestsAreSignExtended :
    (Instr.hashBuf32 cBuf).wide = false ∧
      ∃ t, exec (.hashBuf32 cBuf) (idleWith []) = .next t ∧ t.control = .done ⟨.ok, 0x248bfa47⟩ :=
  ⟨by decide, _, rfl, by decide⟩

theorem witness_IllegalDescriptorsAnswerAbnormally :
    (busyWith 0x00f#192 []).control = .busy 0x00f#192 ∧ hostWaits (busyWith 0x00f#192 []) = true ∧
      (0x00f#192).getLsbD 3 = true := by decide

theorem witness_legal_command_answers :
    (Instr.hashBuf32 cBuf).wf = true ∧
      ∃ t, exec (.hashBuf32 cBuf) (idleWith []) = .next t ∧ t.control = .done ⟨.ok, 0x248bfa47⟩ :=
  ⟨by decide, _, rfl, by decide⟩

theorem witness_ReadFaultsComeFromUnreadableBytes :
    (Instr.hashBuf32 cBuf6).buffer = true ∧ (Instr.hashBuf32 cBuf6).gate = true ∧
      DefinedLaunch (Instr.hashBuf32 cBuf6).args (idleWith []) ∧ portRead (idleWith []) 0x1005 = none ∧
      racedBytes (idleWith []) 0x1005 = [] ∧ ∃ t g, exec (.hashBuf32 cBuf6) (idleWith []) = .next t ∧ t.control = .done ⟨.readFault, g⟩ :=
  ⟨by decide, by decide, definedLaunch_cBuf6, by decide, by decide, _, _, rfl, rfl⟩

/-- LEN -1, and LEN 2 at the last address; LEN 1 there is a defined launch (above). -/
theorem witness_OnlyUndefinedLaunchesAreRefused :
    ((Instr.hashBuf32 (fields true true 0xffffffff 0x1000 0)).buffer = true ∧
        (Instr.hashBuf32 (fields true true 0xffffffff 0x1000 0)).gate = true ∧
        (Instr.hashBuf32 (fields true true 0xffffffff 0x1000 0)).args.len.msb = true) ∧
      ((Instr.hashBuf32 (fields true true 2 0xffffffffffffffff 0)).gate = true ∧
        (Instr.hashBuf32 (fields true true 2 0xffffffffffffffff 0)).args.len.msb = false ∧
        2 ^ 64 < (fields true true 2 0xffffffffffffffff 0).operand.toNat +
          (fields true true 2 0xffffffffffffffff 0).len.toNat) := by decide

/-- A byte in side-effecting memory: the last byte of the range, and only that. -/
theorem witness_side_effecting_launch :
    refusal (exec (.hashBuf32 cBuf) { idleWith [] with sideEffecting := [⟨0x1004, 16⟩] }) = some .sideEffectingBuffer ∧
      (∃ t, exec (.hashBuf32 cBuf) { idleWith [] with sideEffecting := [⟨0x1005, 16⟩] } = .next t) :=
  ⟨by decide, _, rfl⟩

theorem helloReadable (a : Nat) (h1 : 0x1000 ≤ a) (h2 : a < 0x1000 + 5) : (idleWith []).isReadable a = true := by
  obtain ⟨k, rfl⟩ := Nat.exists_eq_add_of_le h1
  have h : k < 5 := by omega
  clear h1 h2
  revert k
  decide

/-- One descriptor for each of the five outcomes of one command; for the last, a scalar, a buffer whose bytes are readable
to the last, and a buffer of none. -/
theorem witness_ChecksAreMadeInOrder :
    (∃ e, decode 0x00f#192 = .error e) ∧
      (∃ i, decode 0x00000000000000000000000000001000ffffffff00000004#192 = .ok i ∧ i.gate = false) ∧
      (∃ i, decode 0x00000000000000000000000000001000ffffffff00000104#192 = .ok i ∧ i.gate = true ∧ i.buffer = true ∧
        ¬ DefinedLaunch i.args (idleWith [])) ∧
      (∃ i, decode 0x000000000000000000000000000010000000000600000104#192 = .ok i ∧ i.gate = true ∧ i.buffer = true ∧
        DefinedLaunch i.args (idleWith []) ∧ (idleWith []).isReadable 0x1005 = false) ∧
      (∃ i, decode 0x000000000000000000000000000000050000000000000140#192 = .ok i ∧ i.gate = true ∧ i.buffer = false) ∧
      (∃ i, decode dBuf = .ok i ∧ i.gate = true ∧ i.buffer = true ∧ DefinedLaunch i.args (idleWith []) ∧
        ∀ a, i.args.operand.toNat ≤ a → a < i.args.operand.toNat + i.args.len.toNat →
          (idleWith []).isReadable a = true) ∧
      (∃ i, decode 0x00000000000000000000000000000fff0000000000000104#192 = .ok i ∧ i.gate = true ∧ i.buffer = true ∧
        DefinedLaunch i.args (idleWith []) ∧
        ∀ a, i.args.operand.toNat ≤ a → a < i.args.operand.toNat + i.args.len.toNat →
          (idleWith []).isReadable a = true) :=
  ⟨⟨_, rfl⟩, ⟨_, rfl, by decide⟩,
    ⟨_, rfl, by decide, by decide, fun h => absurd h.1 (by decide)⟩,
    ⟨_, rfl, by decide, by decide, ⟨by decide, by decide, fun _ h => by cases h⟩, by decide⟩,
    ⟨_, rfl, by decide, by decide⟩,
    ⟨_, rfl, by decide, by decide, ⟨by decide, by decide, fun _ h => by cases h⟩, helloReadable⟩,
    ⟨_, rfl, by decide, by decide, ⟨by decide, by decide, fun _ h => by cases h⟩,
      fun _ h1 h2 => absurd h2 (Nat.not_lt_of_le h1)⟩⟩

/-- Another memory and another map outside the range, another counter. -/
def elsewhere : State :=
  { idleWith [] with mem := helloMem.write 0x2000 1, readable := [⟨0x1000, 5⟩, ⟨0x2000, 1⟩], fresh := 9 }

/-- Two commands that differ in every ignored field, over memories and maps that differ outside the range. -/
theorem witness_ResponseDependsOnUsedFieldsAndRangeOnly :
    SameUse (.hashBuf32 (fields true true 5 0x1000 12345)) (.hashBuf32 ⟨.reserved 0, true, false, 5, 0x1000, 7⟩) ∧
      (idleWith []).sideEffecting = elsewhere.sideEffecting ∧ NoRace (idleWith []) 0x1000 5 ∧ NoRace elsewhere 0x1000 5 ∧
      (∀ a, 0x1000 ≤ a → a < 0x1000 + 5 → (idleWith []).isReadable a = elsewhere.isReadable a ∧
        ((idleWith []).isReadable a = true → (idleWith []).mem.read a = elsewhere.mem.read a)) ∧
      (idleWith []).isReadable 0x2000 = false ∧ elsewhere.isReadable 0x2000 = true ∧
      (idleWith []).mem.read 0x2000 = 0 ∧ elsewhere.mem.read 0x2000 = 1 :=
  ⟨⟨by decide, by decide, by decide, by decide, by decide⟩, rfl, fun _ _ _ => rfl, fun _ _ _ => rfl, by
    intro a h1 h2
    obtain ⟨k, rfl⟩ := Nat.exists_eq_add_of_le h1
    have h : k < 5 := by omega
    clear h1 h2
    revert k
    decide, by decide, by decide, by decide, by decide⟩

/-- A command that faults and one that answers OK; an illegal descriptor and a legal one. -/
theorem witness_NoResponseLeavesATrace :
    (∃ t g, exec (.hashBuf32 cBuf6) (idleWith []) = .next t ∧ t.control = .done ⟨.readFault, g⟩) ∧
      (∃ u, exec (.hashBuf32 cBuf) (idleWith []) = .next u ∧ u.control = .done ⟨.ok, 0x248bfa47⟩) ∧
      (∃ t g, step { idleWith [] with control := .busy 0x00f#192 } = .next t ∧
        t.control = .done ⟨.illegalDescriptor, g⟩) ∧
      (∃ u, step { idleWith [] with control := .busy dBuf } = .next u ∧ u.control = .done ⟨.ok, 0x248bfa47⟩) :=
  ⟨⟨_, _, rfl, rfl⟩, ⟨_, rfl, by decide⟩, ⟨_, _, rfl, rfl⟩, ⟨_, rfl, by decide⟩⟩

/-- With LEN 0, or the gate closed, PTR is not used. -/
theorem witness_SameUse_edges :
    SameUse (.hashBuf64 (fields true true 0 0x1000 0)) (.hashBuf64 (fields true false 0 0xdead0000 1)) ∧
      SameUse (.hashValue32Seeded (fields true false 1 5 0)) (.hashValue32Seeded (fields true false 2 6 9)) :=
  ⟨⟨by decide, by decide, by decide, by decide, by decide⟩, ⟨by decide, by decide, by decide, by decide, by decide⟩⟩

/-- Idle: a descriptor is presented, or a write lands. Busy: the command ends, or a write lands, or reset. Done: the
response is taken, or the host waits, or reset. -/
theorem witness_ControlMovesOnlyAsDrawn :
    (∃ t, step (idleWith [.present dBuf none]) = .next t ∧ t.control = .busy dBuf) ∧
      (∃ t, step (idleWith [.write 0x1000 1]) = .next t ∧ t.control = .idle) ∧
      (∃ t r, step (busyWith dBuf []) = .next t ∧ t.control = .done r) ∧
      (∃ t, step (busyWith dBuf [.write 0x1000 1]) = .next t ∧ t.control = .busy dBuf) ∧
      (∃ t, step (busyWith dBuf [.reset]) = .next t ∧ t.control = .idle) ∧
      (∃ t, step (doneWith ⟨.ok, 0⟩ [.take]) = .next t ∧ t.control = .idle) ∧
      (∃ t, step (doneWith ⟨.ok, 0⟩ []) = .next t ∧ t.control = .done ⟨.ok, 0⟩) ∧
      (∃ t, step (doneWith ⟨.ok, 0⟩ [.reset]) = .next t ∧ t.control = .idle) :=
  ⟨⟨_, rfl, rfl⟩, ⟨_, rfl, rfl⟩, ⟨_, _, rfl, rfl⟩, ⟨_, rfl, rfl⟩, ⟨_, rfl, rfl⟩, ⟨_, rfl, rfl⟩, ⟨_, rfl, rfl⟩,
    ⟨_, rfl, rfl⟩⟩

/-- A descriptor that is ready while a response waits, and while a command is in flight; a response taken. -/
theorem witness_OneCommandAtATimeInOrder :
    (∃ t, step (doneWith ⟨.ok, 0⟩ [.present dBuf none]) = .next t ∧ (doneWith ⟨.ok, 0⟩ []).control ≠ .idle ∧
      t.inbox = [.present dBuf none]) ∧
      (∃ t, step (busyWith dBuf [.present dBuf none]) = .next t ∧ t.inbox = [.present dBuf none]) ∧
      (∃ t, step (doneWith ⟨.ok, 0⟩ [.take]) = .next t ∧ t.responses = [⟨.ok, 0⟩]) :=
  ⟨⟨_, rfl, by decide, rfl⟩, ⟨_, rfl, rfl⟩, ⟨_, rfl, rfl⟩⟩

/-- A command; a step in which no write comes first; and one in which a write does. -/
theorem witness_TheBlockNeverWritesMemory :
    (∃ t, exec (.hashBuf32 cBuf) (idleWith []) = .next t) ∧
      ((∀ a b rest, (busyWith dBuf [.take]).inbox ≠ .write a b :: rest) ∧ ∃ t, step (busyWith dBuf [.take]) = .next t) ∧
      (∃ t, step (idleWith [.write 0x1005 1]) = .next t ∧ t.mem.read 0x1005 = 1) :=
  ⟨⟨_, rfl⟩, ⟨fun _ _ _ h => (by cases h), _, rfl⟩, ⟨_, rfl, by decide⟩⟩

theorem helloMem_wf : Memory.wf helloMem := by decide

/-- The invariant with memory, and with data in the registers and a byte overwritten while a command is in flight. -/
theorem witness_EveryStepKeepsTheInvariant :
    (idleWith [.write 0x1005 1]).Inv ∧ (∃ t, step (idleWith [.write 0x1005 1]) = .next t) ∧
      ({ busyWith dBuf [] with work := { Working.reset with h := 1 }, overwritten := [(0x1000, 1)] } : State).Inv :=
  ⟨⟨helloMem_wf, fun _ => ⟨rfl, rfl⟩⟩, ⟨_, rfl⟩, ⟨helloMem_wf, fun h => by cases h⟩⟩

/-- Reset in Busy, in Done and in Idle; only the last cuts nothing short. -/
theorem witness_ResetAbandonsWhatIsInFlight :
    (busyWith dBuf [.reset]).inbox = .reset :: [] ∧ (doneWith ⟨.ok, 0⟩ [.reset, .take]).inbox = .reset :: [.take] ∧
      (idleWith [.reset]).inbox = .reset :: [] ∧ (∃ t, step (idleWith [.reset]) = .next t ∧ t.cut = false) ∧
      (∃ t, step (busyWith dBuf [.reset]) = .next t ∧ t.cut = true) :=
  ⟨rfl, rfl, rfl, ⟨_, rfl, by decide⟩, ⟨_, rfl, by decide⟩⟩

/-- The response is taken; and the host waits with a descriptor. -/
theorem witness_ResponseIsHeldUntilTaken :
    ((doneWith ⟨.ok, 5⟩ [.take]).control = .done ⟨.ok, 5⟩ ∧ (doneWith ⟨.ok, 5⟩ [.take]).inbox = .take :: []) ∧
      (∀ rest, (doneWith ⟨.ok, 5⟩ [.present dBuf none]).inbox ≠ .take :: rest) ∧
      (∀ rest, (doneWith ⟨.ok, 5⟩ [.present dBuf none]).inbox ≠ .reset :: rest) :=
  ⟨⟨rfl, rfl⟩, fun _ h => (by cases h), fun _ h => (by cases h)⟩

/-- A chained descriptor, with a write while the command is in flight, a wait, and a write after it; and none of these. -/
theorem witness_EveryCommandRunsToCompletion :
    (({ idleWith [.present dBuf (some 1), .write 0x1000 1, .await, .write 0x1001 1, .take] with
          responses := [⟨.ok, 7⟩] } : State).inbox =
        .present dBuf (some 1) :: ([.write 0x1000 1, .await, .write 0x1001 1] ++ .take :: []) ∧
      presented [⟨.ok, 7⟩] dBuf (some 1) = some (withSeed dBuf 7) ∧
      (∀ x ∈ [HostAction.write 0x1000 1, .await, .write 0x1001 1], x.passive = true) ∧
      ∀ i, decode (withSeed dBuf 7) = .ok i → i.buffer = true → i.gate = true → DefinedLaunch i.args (idleWith [])) ∧
      (idleWith [.present dBuf none, .take]).control = .idle ∧
      (idleWith [.present dBuf none, .take]).inbox = .present dBuf none :: ([] ++ .take :: []) ∧
      presented [] dBuf none = some dBuf :=
  ⟨⟨rfl, rfl, by decide, fun i h _ _ => by
    have e : decode (withSeed dBuf 7) = .ok (.hashBuf32 (fields true false 5 0x1000 7)) := by decide
    rw [e] at h
    cases h
    exact ⟨by decide, by decide, fun _ h => by cases h⟩⟩, rfl, rfl, rfl⟩

/-- The last address, which is not readable here, and a readable one. -/
theorem witness_WritesBeforePresentingAreSeen :
    (idleWith [.write 0xffffffffffffffff 1, .present dBuf none]).control = .idle ∧
      (idleWith [.write 0xffffffffffffffff 1, .present dBuf none]).inbox =
        .write 0xffffffffffffffff 1 :: .present dBuf none :: [] ∧
      (idleWith []).isReadable 0xffffffffffffffff = false ∧ (idleWith []).isReadable 0x1000 = true := by decide

/-- A race on one byte alone; a race where nothing is readable; a write that races, and one that comes too late. -/
theorem witness_RacingReadsGiveTheOldOrANewByte :
    (racedBytes { busyWith dBuf [] with overwritten := [(0x1000, 0x69), (0x1000, 0x6a)] } 0x1000 = [0x69, 0x6a] ∧
        racedBytes { busyWith dBuf [] with overwritten := [(0x1000, 0x69), (0x1000, 0x6a)] } 0x1001 = [] ∧
        (busyWith dBuf []).isReadable 0x1000 = true) ∧
      portRead { busyWith dBuf [] with overwritten := [(0x1005, 0x69)] } 0x1005 = none ∧
      (∃ t, step (busyWith dBuf [.write 0x1000 1]) = .next t ∧ t.overwritten = [(0x1000, 0x68)]) ∧
      (∃ t, step (doneWith ⟨.ok, 0⟩ [.write 0x1000 1]) = .next t ∧ t.overwritten = []) :=
  ⟨by decide, by decide, ⟨_, rfl, by decide⟩, ⟨_, rfl, by decide⟩⟩

theorem witness_SeedChainingFillsTheSeedField :
    ({ idleWith [.present 0x3ff80000000000000000000000000301#192 (some 1)] with
        responses := [⟨.ok, 0xffffffffb228267d⟩] } : State).control = .idle ∧
      [(⟨.ok, 0xffffffffb228267d⟩ : Response)][0]? = some ⟨.ok, 0xffffffffb228267d⟩ := ⟨rfl, rfl⟩

end Sys2Proof.Tests
end

section
/-! PROOFS. What each turn and each step does to memory, and that the block itself never writes it (20_memory.md R41). -/

namespace Sys2Proof.Machine

/-! ## Memory after a turn of the host's side -/

/-- Memory goes from `s` to `t` as the host's next action says: written where that is a write, kept otherwise. -/
def MemFollowsHost (s t : State) : Prop :=
  t.mem = s.mem ∨ ∃ a b rest, s.inbox = .write a b :: rest ∧ t.mem = s.mem.write a.toNat b

theorem MemFollowsHost.mem_eq {s t : State} (h : MemFollowsHost s t)
    (hw : ∀ a b rest, s.inbox ≠ .write a b :: rest) : t.mem = s.mem := by
  obtain h | ⟨a, b, rest, hin, -⟩ := h
  · exact h
  · exact absurd hin (hw a b rest)

theorem idleTurn_memFollowsHost (s : State) : MemFollowsHost s (idleTurn s) := by
  obtain h | ⟨d, ch, rest, d', -, -, h⟩ | ⟨a, b, rest, hin, h⟩ | ⟨rest, -, h⟩ := idleTurn_cases s <;> rw [h]
  case inr.inr.inl => exact .inr ⟨a, b, rest, hin, hostWrite_mem a b _⟩
  all_goals exact .inl rfl

theorem flightTurn_memFollowsHost (s : State) : MemFollowsHost s (flightTurn s) := by
  obtain h | ⟨a, b, rest, hin, h⟩ | ⟨rest, -, h⟩ := flightTurn_cases s <;> rw [h]
  case inr.inl => exact .inr ⟨a, b, rest, hin, racingWrite_mem a b _⟩
  all_goals exact .inl rfl

theorem doneTurn_memFollowsHost (r : Response) (s : State) : MemFollowsHost s (doneTurn r s) := by
  obtain h | ⟨rest, -, h⟩ | ⟨rest, -, h⟩ | ⟨a, b, rest, hin, h⟩ | ⟨rest, -, h⟩ := doneTurn_cases r s <;> rw [h]
  case inr.inr.inr.inl => exact .inr ⟨a, b, rest, hin, hostWrite_mem a b _⟩
  all_goals exact .inl rfl

/-! ## Memory after a command and after a step -/

theorem exec_mem {i : Instr} {s t : State} (h : exec i s = .next t) : t.mem = s.mem := by
  obtain ⟨r, w, rfl⟩ := exec_next h
  exact respond_mem r w s

theorem step_memFollowsHost {s t : State} (h : step s = .next t) : MemFollowsHost s t := by
  obtain ⟨-, rfl⟩ | ⟨r, -, rfl⟩ | ⟨d, -, -, rfl⟩ | ⟨d, r, w, -, -, rfl⟩ := step_next h
  · exact idleTurn_memFollowsHost s
  · exact doneTurn_memFollowsHost r s
  · exact flightTurn_memFollowsHost s
  · exact .inl (respond_mem r w s)

/-- Settles O50: a command ends in `respond`, which keeps memory, and a step writes only what the host writes next. -/
theorem theBlockNeverWritesMemory : Obligations.TheBlockNeverWritesMemory := by
  refine ⟨fun i s t h => ?_, fun s t hw h => (step_memFollowsHost h).mem_eq hw⟩
  have hmem : t.mem = s.mem := exec_mem h
  exact ⟨hmem, fun a => by rw [hmem]⟩

end Sys2Proof.Machine
end

section
/-! PROOFS. What the decoder answers, in the fields of the descriptor: which descriptors are illegal (30_encoding.md
R72), the opcode map by mask and match (R71), and what each bit of OP selects (R62). -/

namespace Sys2Proof

/-! ## The fields of CTRL as bits of the descriptor (30_encoding.md R61) -/

theorem ctrlOp_getLsbD (d : Descriptor) {j : Nat} (hj : j < 4) :
    (ctrlOp (Descriptor.ctrl d)).getLsbD j = d.getLsbD j := by
  simp [ctrlOp, Descriptor.ctrl, hj]

theorem ctrlReserved_getLsbD (d : Descriptor) {j : Nat} (hj : j < 22) :
    (ctrlReserved (Descriptor.ctrl d)).getLsbD j = d.getLsbD (10 + j) := by
  simp [ctrlReserved, Descriptor.ctrl, hj]

theorem ctrlVType_eq (d : Descriptor) : ctrlVType (Descriptor.ctrl d) = d.extractLsb' 4 4 := by
  ext j hj
  simp [ctrlVType, Descriptor.ctrl]

/-- Condition (a) of R72: the reserved field is nonzero where one of its bits is 1. -/
theorem ctrlReserved_ne_zero_iff (d : Descriptor) :
    ctrlReserved (Descriptor.ctrl d) ≠ 0 ↔ ∃ j, 10 ≤ j ∧ j < 32 ∧ d.getLsbD j = true := by
  constructor
  · intro hne
    by_contra hnone
    refine hne (BitVec.eq_of_getLsbD_eq fun j hj => ?_)
    rw [ctrlReserved_getLsbD d hj, BitVec.ofNat_eq_ofNat, BitVec.getLsbD_zero, Bool.eq_false_iff]
    exact fun hbit => hnone ⟨10 + j, by omega, by omega, hbit⟩
  · rintro ⟨j, hlo, hhi, hbit⟩ hzero
    have hfield := ctrlReserved_getLsbD d (j := j - 10) (by omega)
    rw [hzero, Nat.add_sub_cancel' hlo, hbit] at hfield
    simp at hfield

/-- The legal VTYPE codes are 0 to 10 (30_encoding.md R63). -/
theorem VType.ofCode_legal : ∀ v : BitVec 4, (VType.ofCode v).legal = decide (v.toNat ≤ 10) := by decide

/-! ## What the decoder answers (30_encoding.md R70) -/

/-- The three conditions of 30_encoding.md R72, over the fields of CTRL. -/
def Descriptor.Illegal (d : Descriptor) : Prop :=
  ctrlReserved (Descriptor.ctrl d) ≠ 0 ∨ (ctrlOp (Descriptor.ctrl d)).getLsbD 3 = true ∨
    ((ctrlOp (Descriptor.ctrl d)).getLsbD 2 = false ∧ 11 ≤ (ctrlVType (Descriptor.ctrl d)).toNat)

/-- The fields of a descriptor other than OP. -/
def Descriptor.args (d : Descriptor) : Args where
  vtype := VType.ofCode (ctrlVType (Descriptor.ctrl d))
  valid := ctrlValid (Descriptor.ctrl d)
  seedValid := ctrlSeedValid (Descriptor.ctrl d)
  len := Descriptor.len d
  operand := Descriptor.operand d
  seed := Descriptor.seed d

/-- The command that OP's low three bits select, with the fields of the descriptor. -/
def Descriptor.command (d : Descriptor) : Instr :=
  commandOf ((ctrlOp (Descriptor.ctrl d)).getLsbD 2) ((ctrlOp (Descriptor.ctrl d)).getLsbD 1)
    ((ctrlOp (Descriptor.ctrl d)).getLsbD 0) (Descriptor.args d)

/-- The decoder refuses an illegal descriptor and gives the command of any other. -/
theorem decode_cases (d : Descriptor) :
    (Descriptor.Illegal d ∧ ∃ e, decode d = .error e) ∨
      (¬ Descriptor.Illegal d ∧ decode d = .ok (Descriptor.command d)) := by
  unfold decode Descriptor.Illegal
  by_cases hres : ctrlReserved (Descriptor.ctrl d) ≠ 0
  · exact .inl ⟨.inl hres, .reservedBits, if_pos hres⟩
  by_cases hop : (ctrlOp (Descriptor.ctrl d)).getLsbD 3 = true
  · exact .inl ⟨.inr (.inl hop), .reservedOp, by simp only [if_neg hres, if_pos hop]⟩
  have htype :
      (!(ctrlOp (Descriptor.ctrl d)).getLsbD 2 && !(VType.ofCode (ctrlVType (Descriptor.ctrl d))).legal) = true ↔
      (ctrlOp (Descriptor.ctrl d)).getLsbD 2 = false ∧ 11 ≤ (ctrlVType (Descriptor.ctrl d)).toNat := by
    rw [VType.ofCode_legal]
    simp [Nat.lt_iff_add_one_le]
  simp only [if_neg hres, if_neg hop, htype]
  split
  case isTrue hbad => exact .inl ⟨.inr (.inr hbad), .reservedType, rfl⟩
  case isFalse hgood => exact .inr ⟨by tauto, rfl⟩

/-- OP of a legal descriptor is below 8. -/
theorem ctrlOp_bit3_of_legal {d : Descriptor} (hlegal : ¬ Descriptor.Illegal d) :
    (ctrlOp (Descriptor.ctrl d)).getLsbD 3 = false :=
  Bool.eq_false_iff.mpr fun hbit => hlegal (.inr (.inl hbit))

theorem decode_eq_error_iff (d : Descriptor) : (∃ e, decode d = .error e) ↔ Descriptor.Illegal d := by
  obtain ⟨hbad, he⟩ | ⟨hgood, hok⟩ := decode_cases d
  · exact iff_of_true he hbad
  · exact iff_of_false (by simp [hok]) hgood

theorem decode_eq_ok_iff (d : Descriptor) (i : Instr) :
    decode d = .ok i ↔ ¬ Descriptor.Illegal d ∧ Descriptor.command d = i := by
  obtain ⟨hbad, e, he⟩ | ⟨hgood, hok⟩ := decode_cases d
  · simp [he, hbad]
  · simp [hok, hgood]

/-- Settles O5: the decoder refuses by the fields of CTRL, and each condition on a field is one on its bits. -/
theorem illegalDescriptorsAreExactlyThese : Obligations.IllegalDescriptorsAreExactlyThese := by
  intro d
  rw [decode_eq_error_iff, Descriptor.Illegal, ctrlReserved_ne_zero_iff, ctrlOp_getLsbD d (by decide),
    ctrlOp_getLsbD d (by decide), ctrlVType_eq]

/-! ## The three axes (30_encoding.md R62) -/

section
variable (buf w64 seeded : Bool) (c : Args)

@[simp] theorem commandOf_seeded : (commandOf buf w64 seeded c).seeded = seeded := by
  cases buf <;> cases w64 <;> cases seeded <;> rfl

@[simp] theorem commandOf_wide : (commandOf buf w64 seeded c).wide = w64 := by
  cases buf <;> cases w64 <;> cases seeded <;> rfl

@[simp] theorem commandOf_buffer : (commandOf buf w64 seeded c).buffer = buf := by
  cases buf <;> cases w64 <;> cases seeded <;> rfl

theorem commandOf_op :
    (commandOf buf w64 seeded c).op =
      0#1 ++ BitVec.ofBool buf ++ BitVec.ofBool w64 ++ BitVec.ofBool seeded := by
  cases buf <;> cases w64 <;> cases seeded <;> rfl

end

/-- Settles O7: a descriptor that decodes gives `commandOf` the low bits of OP, and is not illegal by `CTRL[3]`. -/
theorem opBitsSelectTheThreeAxes : Obligations.OpBitsSelectTheThreeAxes := by
  intro d i h
  obtain ⟨hlegal, rfl⟩ := (decode_eq_ok_iff d i).mp h
  have hbit {j : Nat} : j < 4 → (ctrlOp (Descriptor.ctrl d)).getLsbD j = d.getLsbD j := ctrlOp_getLsbD d
  refine ⟨?_, ?_, ?_, (hbit (by decide)).symm.trans (ctrlOp_bit3_of_legal hlegal)⟩
  · rw [Descriptor.command, commandOf_seeded, hbit (by decide)]
  · rw [Descriptor.command, commandOf_wide, hbit (by decide)]
  · rw [Descriptor.command, commandOf_buffer, hbit (by decide)]

/-! ## The opcode map (30_encoding.md R71) -/

theorem append_opBits_eq : ∀ op : BitVec 4, op.getLsbD 3 = false →
    0#1 ++ BitVec.ofBool (op.getLsbD 2) ++ BitVec.ofBool (op.getLsbD 1) ++ BitVec.ofBool (op.getLsbD 0) = op := by
  decide

theorem Descriptor.command_op {d : Descriptor} (hlegal : ¬ Descriptor.Illegal d) :
    (Descriptor.command d).op = ctrlOp (Descriptor.ctrl d) := by
  rw [Descriptor.command, commandOf_op, append_opBits_eq _ (ctrlOp_bit3_of_legal hlegal)]

theorem ctrl_eq_append (ctrl : Word32) :
    ctrl = ctrlReserved ctrl ++ ctrl.extractLsb' 4 6 ++ ctrlOp ctrl := by
  unfold ctrlReserved ctrlOp
  rw [BitVec.extractLsb'_append_extractLsb'_eq_extractLsb' (start₁ := 4) (start₂ := 10) rfl,
    BitVec.extractLsb'_append_extractLsb'_eq_extractLsb' (start₁ := 0) (start₂ := 4) rfl]
  exact BitVec.extractLsb'_eq_self.symm

/-- The mask keeps the reserved bits and OP, and clears the six bits between. -/
theorem and_opcodeMask (ctrl : Word32) :
    ctrl &&& 0xFFFFFC0F#32 = ctrlReserved ctrl ++ 0#6 ++ ctrlOp ctrl := by
  have hmask : 0xFFFFFC0F#32 = BitVec.allOnes 22 ++ 0#6 ++ BitVec.allOnes 4 := by decide
  calc ctrl &&& 0xFFFFFC0F#32
      = (ctrlReserved ctrl ++ ctrl.extractLsb' 4 6 ++ ctrlOp ctrl) &&&
          (BitVec.allOnes 22 ++ 0#6 ++ BitVec.allOnes 4) := by rw [← hmask, ← ctrl_eq_append]
    _ = ctrlReserved ctrl ++ 0#6 ++ ctrlOp ctrl := by
        rw [BitVec.and_append, BitVec.and_append, BitVec.and_allOnes, BitVec.and_zero, BitVec.and_allOnes]

theorem append_op_eq_ofNat_iff (reserved : BitVec 22) (op : BitVec 4) {n : Nat} (hn : n < 16) :
    reserved ++ 0#6 ++ op = BitVec.ofNat 32 n ↔ reserved = 0 ∧ op = BitVec.ofNat 4 n := by
  have hword : ∀ n < 16, BitVec.ofNat 32 n = 0#22 ++ 0#6 ++ BitVec.ofNat 4 n := by decide
  rw [hword n hn]
  constructor
  · intro h
    have hop : op = BitVec.ofNat 4 n := by
      simpa only [BitVec.extractLsb'_append_eq_right] using congrArg (BitVec.extractLsb' 0 4) h
    rw [hop] at h
    exact ⟨(BitVec.append_left_inj _).mp ((BitVec.append_left_inj _).mp h), hop⟩
  · rintro ⟨rfl, rfl⟩
    rfl

/-- CTRL matches OP `n` under the mask where the reserved bits are 0 and OP is `n`. -/
theorem opcodeMatch_iff (ctrl : Word32) {n : Nat} (hn : n < 16) :
    ctrl &&& 0xFFFFFC0F#32 = BitVec.ofNat 32 n ↔ ctrlReserved ctrl = 0 ∧ ctrlOp ctrl = BitVec.ofNat 4 n := by
  rw [and_opcodeMask, append_op_eq_ofNat_iff _ _ hn]

theorem ofNat_op_bits :
    ∀ n < 8, (BitVec.ofNat 4 n).getLsbD 3 = false ∧ (BitVec.ofNat 4 n).getLsbD 2 = decide (4 ≤ n) := by
  decide

/-- Once the match has fixed the reserved bits and OP, only a reserved VTYPE in a scalar command is illegal. -/
theorem Descriptor.illegal_iff_of_op {d : Descriptor} {n : Nat} (hn : n < 8)
    (hres : ctrlReserved (Descriptor.ctrl d) = 0) (hop : ctrlOp (Descriptor.ctrl d) = BitVec.ofNat 4 n) :
    Descriptor.Illegal d ↔ n < 4 ∧ 11 ≤ (ctrlVType (Descriptor.ctrl d)).toNat := by
  obtain ⟨hbit3, hbit2⟩ := ofNat_op_bits n hn
  simp only [Descriptor.Illegal, hres, hop, hbit3, hbit2, ne_eq, not_true_eq_false, Bool.false_eq_true, false_or,
    decide_eq_false_iff_not, not_le]

/-- Settles O6: the match fixes the reserved bits and OP, and the rest of legality is the condition on VTYPE. -/
theorem opcodeMapByMaskAndMatch : Obligations.OpcodeMapByMaskAndMatch := by
  intro d n hn
  simp only [decode_eq_ok_iff, ← ctrlVType_eq]
  rw [show d.extractLsb' 0 32 = Descriptor.ctrl d from rfl, opcodeMatch_iff _ (by omega)]
  constructor
  · rintro ⟨⟨hres, hop⟩, htype⟩
    have hlegal : ¬ Descriptor.Illegal d := by
      rw [Descriptor.illegal_iff_of_op hn hres hop]
      exact fun ⟨hn4, hbad⟩ => absurd (htype hn4) (by omega)
    exact ⟨_, ⟨hlegal, rfl⟩, (Descriptor.command_op hlegal).trans hop⟩
  · rintro ⟨_, ⟨hlegal, rfl⟩, hop⟩
    have hres : ctrlReserved (Descriptor.ctrl d) = 0 := not_not.mp fun hne => hlegal (.inl hne)
    rw [Descriptor.command_op hlegal] at hop
    rw [Descriptor.illegal_iff_of_op hn hres hop] at hlegal
    exact ⟨⟨hres, hop⟩, fun hn4 => by omega⟩

end Sys2Proof
end

section
/-! PROOFS. The mixing primitives (40_primitives.md): where a rotation moves each bit (R92, R93), and the finalizers and
the primitives of the 64-bit path by their listings (R94, R95, R99 to R102). -/

namespace Sys2Proof.Machine

/-! ## Rotations (40_primitives.md R92, R93) -/

/-- A bit either moves up by `r`, or wraps around and lands among the low `r` bits. -/
theorem getLsbD_rotateLeft_add_mod {w : Nat} (x : BitVec w) {r i : Nat} (hr : r < w) (hi : i < w) :
    (x.rotateLeft r).getLsbD ((i + r) % w) = x.getLsbD i := by
  rw [BitVec.getLsbD_rotateLeft_of_le hr]
  by_cases hwrap : i + r < w
  · simp [Nat.mod_eq_of_lt hwrap, hwrap]
  · have hindex : (i + r) % w = i + r - w := by
      rw [Nat.mod_eq_sub_mod (by omega), Nat.mod_eq_of_lt (by omega)]
    have hlow : i + r - w < r := by omega
    have hback : w - r + (i + r - w) = i := by omega
    simp [hindex, hlow, hback]

theorem rotl32_eq_rotateLeft (x : Word32) {r : Nat} (hr : r < 32) : rotl32 x r = x.rotateLeft r :=
  (BitVec.rotateLeft_eq_rotateLeftAux_of_lt hr).symm

theorem rotl64_eq_rotateLeft (x : Word64) {r : Nat} (hr : r < 64) : rotl64 x r = x.rotateLeft r :=
  (BitVec.rotateLeft_eq_rotateLeftAux_of_lt hr).symm

/-- Settles O8: each rotation is defined by the formula, and is the library's rotation at its width. -/
theorem rotationsMoveEachBit : Obligations.RotationsMoveEachBit := by
  refine ⟨fun x r _ hr => ⟨rfl, fun i hi => ?_⟩, fun x r _ hr => ⟨rfl, fun i hi => ?_⟩⟩
  · rw [rotl32_eq_rotateLeft x hr, getLsbD_rotateLeft_add_mod x hr hi]
  · rw [rotl64_eq_rotateLeft x hr, getLsbD_rotateLeft_add_mod x hr hi]

/-! ## The finalizers and the primitives of the 64-bit path (40_primitives.md R94, R95, R99 to R102) -/

theorem k1mix_eq (k : Word64) : k1mix k = rotl64 (k * 0x87c37b91114253d5) 31 * 0x4cf5ad432745937f := rfl

theorem k2mix_eq (k : Word64) : k2mix k = rotl64 (k * 0x4cf5ad432745937f) 33 * 0x87c37b91114253d5 := rfl

section
variable {h1 h2 k1 k2 n a b c d : Word64}

theorem fmix32_eq_of_steps {a b c d e h : Word32} (ha : a = h ^^^ h >>> 16) (hb : b = a * 0x85ebca6b)
    (hc : c = b ^^^ b >>> 13) (hd : d = c * 0xc2b2ae35) (he : e = d ^^^ d >>> 16) : fmix32 h = e := by
  subst ha hb hc hd he
  rfl

theorem fmix64_eq_of_steps {e x : Word64} (ha : a = x ^^^ x >>> 33) (hb : b = a * 0xff51afd7ed558ccd)
    (hc : c = b ^^^ b >>> 33) (hd : d = c * 0xc4ceb9fe1a85ec53) (he : e = d ^^^ d >>> 33) : fmix64 x = e := by
  subst ha hb hc hd he
  rfl

/-- `a` is the new first half, from which the second half `b` is made. -/
theorem block64_eq_of_steps (ha : a = (rotl64 (h1 ^^^ k1mix k1) 27 + h2) * 5 + 0x52dce729)
    (hb : b = (rotl64 (h2 ^^^ k2mix k2) 31 + a) * 5 + 0x38495ab5) : block64 h1 h2 k1 k2 = (a, b) := by
  have hfirst : blockH1 h1 h2 k1 = a := ha.symm
  have hsecond : blockH2 a h2 k2 = b := hb.symm
  rw [block64, hfirst, hsecond]

/-- `c` is the new first half, which the second sum `d` adds. -/
theorem final64_eq_of_steps (ha : a = h1 ^^^ n) (hb : b = h2 ^^^ n) (hc : c = a + b) (hd : d = b + c) :
    final64 h1 h2 n = fmix64 c + fmix64 d := by
  subst ha hb hc hd
  rfl

end

/-- Settles O9: one lemma per listing. -/
theorem primitivesFollowTheirListings : Obligations.PrimitivesFollowTheirListings :=
  ⟨fun _ _ _ _ _ _ => fmix32_eq_of_steps, fun _ _ _ _ _ _ => fmix64_eq_of_steps, k1mix_eq, k2mix_eq,
    fun _ _ _ _ _ _ => block64_eq_of_steps, fun _ _ _ _ _ _ _ => final64_eq_of_steps⟩

end Sys2Proof.Machine
end

section
/-! PROOFS. The fields of a binary64 pattern put together from sign, exponent and fraction, what a binary32 NaN widens to
(41_fixed_width.md R115), and the FLOAT64 operand (R111). -/

namespace Sys2Proof.Machine

/-! ## The fields of a binary64 pattern -/

section
variable (sign : BitVec 1) (exponent : BitVec 11) (fraction : BitVec 52)

@[simp] theorem doubleExponent_append : doubleExponent (sign ++ exponent ++ fraction) = exponent.toNat := by
  rw [doubleExponent, BitVec.extractLsb'_append_eq_of_le (by decide)]
  exact congrArg BitVec.toNat BitVec.extractLsb'_append_eq_right

@[simp] theorem doubleFraction_append : doubleFraction (sign ++ exponent ++ fraction) = fraction.toNat := by
  rw [doubleFraction, BitVec.extractLsb'_append_eq_right]

end

/-! ## Widening a NaN (41_fixed_width.md R115) -/

theorem doubleExponent_widenNaN (w : Word32) : doubleExponent (widenNaN w) = 2047 := by
  rw [widenNaN, doubleExponent_append]
  rfl

theorem doubleFraction_widenNaN (w : Word32) : doubleFraction (widenNaN w) = (Config.nanFraction w).val + 1 := by
  have hlt := (Config.nanFraction w).isLt
  rw [widenNaN, doubleFraction_append, BitVec.toNat_ofNat, Nat.mod_eq_of_lt (by omega)]

/-- The branch of `f32_to_f64` for exponent 255 and a fraction that is not 0. -/
theorem f32ToF64_of_nan {w : Word32} (hexp : singleExponent w = 255) (hfrac : singleFraction w ≠ 0) :
    f32ToF64 w = widenNaN w := by
  have hexp : w.extractLsb' 23 8 = 255 := BitVec.eq_of_toNat_eq hexp
  have hfrac : w.extractLsb' 0 23 ≠ 0 := fun h => hfrac (congrArg BitVec.toNat h)
  unfold f32ToF64
  dsimp only
  rw [hexp, if_neg (by decide), if_pos rfl, if_neg hfrac]

/-! ## FLOAT64 operands (41_fixed_width.md R111) -/

@[simp] theorem toBits_float64 (operand : Word64) : toBits .float64 operand = operand := rfl

/-- Settles O13: the row of FLOAT64 makes no conversion. -/
theorem float64OperandIsTheWord : Obligations.Float64OperandIsTheWord :=
  toBits_float64

/-- Settles O19: exponent and fraction of `widenNaN` for every free value; FLOAT64 by its row. -/
theorem naNsWidenToNaNs : Obligations.NaNsWidenToNaNs := by
  refine ⟨fun w hexp hfrac => ?_, fun w _ _ => toBits_float64 w⟩
  rw [f32ToF64_of_nan hexp hfrac, doubleExponent_widenNaN, doubleFraction_widenNaN]
  exact ⟨rfl, rfl, Nat.succ_ne_zero _⟩

end Sys2Proof.Machine
end

section
/-! PROOFS. The digests of the fixed-width cores (41_fixed_width.md R118, R119), from whatever registers a run finds. -/

namespace Sys2Proof.Machine

theorem runHash32_h (bits : Word64) (seed : Word32) (w : Working) :
    (runHash32 bits seed w).h =
      final32 (round32 (round32 seed (bits.extractLsb' 0 32)) (bits.extractLsb' 32 32)) 8 := by
  rw [runHash32, finish32_h, absorb32_h, absorb32_h, start32_h]

theorem runHash64_h1 (bits : Word64) (seed : Word32) (w : Working) :
    (runHash64 bits seed w).h1 = final64 (seed.signExtend 64 ^^^ k1mix bits) (seed.signExtend 64) 8 := by
  rw [runHash64, finish64_h1, absorbTailK1_h1, absorbTailK1_h2, start64_h1, start64_h2]

/-- Settles O22: the run from the reset registers. -/
theorem hash32OfAWord : Obligations.Hash32OfAWord :=
  fun bits seed => runHash32_h bits seed Working.reset

/-- Settles O23: the run from the reset registers. -/
theorem hash64OfAWord : Obligations.Hash64OfAWord :=
  fun bits seed => runHash64_h1 bits seed Working.reset

end Sys2Proof.Machine
end

section
/-! PROOFS. The digest of the 64-bit buffer core (42_buffer.md R138), from whatever registers a run finds. -/

namespace Sys2Proof.Machine

/-! ## The bytes that blocks and tail read -/

/-- `B[lo .. lo+len)`. -/
theorem slice_add (B : List Byte) (lo len : Nat) : slice B lo (lo + len) = (B.drop lo).take len := by
  rw [slice, Nat.add_sub_cancel_left]

/-- `B[lo .. n)`, where `n` is the length of `B`. -/
theorem slice_length (B : List Byte) (lo : Nat) : slice B lo B.length = B.drop lo := by
  rw [slice, ← List.length_drop, List.take_length]

/-- The bytes after the last full 16-byte block number `n % 16` (42_buffer.md R136). -/
theorem length_drop_blocks64 (B : List Byte) : (B.drop (16 * (B.length / 16))).length = B.length % 16 := by
  rw [List.length_drop]
  omega

/-! ## Blocks, tail and length -/

/-- The halves after the full blocks, taken as a pair, are the blocks' bytes absorbed in ascending order. -/
theorem blocks64_h_eq_foldl_range (B : List Byte) (nb : Nat) (w : Working) :
    ((blocks64 B nb w).h1, (blocks64 B nb w).h2) =
      (List.range nb).foldl
        (fun h i => block64 h.1 h.2 (leWord 64 ((B.drop (16 * i)).take 8)) (leWord 64 ((B.drop (16 * i + 8)).take 8)))
        (w.h1, w.h2) := by
  have hsecond (i : Nat) : slice B (16 * i + 8) (16 * i + 16) = (B.drop (16 * i + 8)).take 8 := slice_add B _ 8
  simp only [blocks64_h, words64, List.foldl_map, slice_add, hsecond]

/-- The digest from the halves after the full blocks: the tail as `tail64` mixes it, then the whole length. -/
theorem runHash64Buf_h1 (B : List Byte) (seed : Word32) (w : Working) {h1 h2 : Word64} {t : Nat}
    (ht : t = 16 * (B.length / 16))
    (hblocks : (h1, h2) = (List.range (B.length / 16)).foldl
      (fun h i => block64 h.1 h.2 (leWord 64 ((B.drop (16 * i)).take 8)) (leWord 64 ((B.drop (16 * i + 8)).take 8)))
      (seed.signExtend 64, seed.signExtend 64)) :
    (runHash64Buf B seed w).h1 =
      final64
        (if 1 ≤ B.length % 16 then h1 ^^^ k1mix (leWord 64 ((B.drop t).take (min (B.length % 16) 8))) else h1)
        (if 9 ≤ B.length % 16 then h2 ^^^ k2mix (leWord 64 (B.drop (t + 8))) else h2)
        (BitVec.ofNat 64 B.length) := by
  have hrun := blocks64_h_eq_foldl_range B (B.length / 16) (firstBlock (start64 seed w))
  rw [firstBlock_h1, firstBlock_h2, start64_h1, start64_h2, ← hblocks] at hrun
  obtain ⟨hrun1, hrun2⟩ := Prod.mk.inj hrun
  have hfirst : (B.drop t).take 8 = (B.drop t).take (min (B.length % 16) 8) := by
    rw [List.take_eq_take_min, ht, length_drop_blocks64, Nat.min_comm]
  have hsecond : (B.drop t).drop 8 = B.drop (t + 8) := List.drop_drop
  rw [← hfirst, ← hsecond, ← length_drop_blocks64 B, ← ht, runHash64Buf, finish64_h1, tail64_h1, tail64_h2, ← ht,
    slice_length, hrun1, hrun2]

/-- Settles O25: the run from the reset registers. -/
theorem hash64OfABuffer : Obligations.Hash64OfABuffer :=
  fun B seed _ _ ht hblocks => runHash64Buf_h1 B seed Working.reset ht hblocks

end Sys2Proof.Machine
end

section
/-! PROOFS. What a command answers by its gate, its seed and its operand (43_null_seed_contract.md R150 to R161): the
contract is proved once over the axes of OP, and each of the eight entry points is a case of it. -/

namespace Sys2Proof.Machine

/-! ## Gate and seed (43_null_seed_contract.md R150, R151) -/

@[simp] theorem effectiveSeed_unseeded (c : Args) : effectiveSeed false c = 0 := rfl

@[simp] theorem effectiveSeed_seeded (c : Args) : effectiveSeed true c = c.seed.extractLsb' 0 32 := rfl

theorem gateOpen_unseeded (c : Args) : gateOpen false c = c.valid := by
  simp [gateOpen]

theorem gateOpen_seeded (c : Args) : gateOpen true c = (c.valid && c.seedValid) := by
  simp [gateOpen]

theorem gateOpen_of_invalid (seeded : Bool) {c : Args} (h : c.valid = false) : gateOpen seeded c = false := by
  rw [gateOpen, h, Bool.false_and]

/-- Settles O39: the two rows of the effective seed, and the registers that the two starts write. -/
theorem effectiveSeedIsNarrowed : Obligations.EffectiveSeedIsNarrowed :=
  ⟨fun c => ⟨effectiveSeed_unseeded c, effectiveSeed_seeded c⟩, start32_h,
    fun seed w => ⟨start64_h1 seed w, start64_h2 seed w⟩⟩

/-! ## The digest of a run does not depend on the registers it finds (10_state.md section 5) -/

section
variable (bits : Word64) (B : List Byte) (seed : Word32) (w : Working)

theorem runHash32_h_eq_coreHash32 : (runHash32 bits seed w).h = coreHash32 bits seed := by
  rw [coreHash32, runHash32_h, runHash32_h]

theorem runHash64_h1_eq_coreHash64 : (runHash64 bits seed w).h1 = coreHash64 bits seed := by
  rw [coreHash64, runHash64_h1, runHash64_h1]

/-- The run from `start32` on: `h` after blocks, tail and length is made of the seed and the bytes alone. -/
theorem runHash32Buf_h_eq_coreHash32Buf : (runHash32Buf B seed w).h = coreHash32Buf B seed := by
  simp only [coreHash32Buf, runHash32Buf, finish32_h, tail32_h, blocks32_h, firstBlock_h, start32_h]

theorem runHash64Buf_h1_eq_coreHash64Buf : (runHash64Buf B seed w).h1 = coreHash64Buf B seed := by
  rw [coreHash64Buf, runHash64Buf_h1 B seed w rfl Prod.mk.eta, runHash64Buf_h1 B seed Working.reset rfl Prod.mk.eta]

end

/-! ## DIGEST by the width of the command (30_encoding.md R76) -/

/-- DIGEST of a scalar command on its 8-byte word. -/
def wordDigest (wide : Bool) (bits : Word64) (seed : Word32) : Word64 :=
  if wide = true then coreHash64 bits seed else (coreHash32 bits seed).signExtend 64

theorem wordDigest_narrow (bits : Word64) (seed : Word32) :
    wordDigest false bits seed = (coreHash32 bits seed).signExtend 64 := if_neg Bool.false_ne_true

theorem wordDigest_wide (bits : Word64) (seed : Word32) : wordDigest true bits seed = coreHash64 bits seed := if_pos rfl

/-- DIGEST of a buffer command on its bytes. -/
def bufferDigest (wide : Bool) (B : List Byte) (seed : Word32) : Word64 :=
  if wide = true then coreHash64Buf B seed else (coreHash32Buf B seed).signExtend 64

theorem bufferDigest_narrow (B : List Byte) (seed : Word32) :
    bufferDigest false B seed = (coreHash32Buf B seed).signExtend 64 := if_neg Bool.false_ne_true

theorem bufferDigest_wide (B : List Byte) (seed : Word32) : bufferDigest true B seed = coreHash64Buf B seed :=
  if_pos rfl

/-- The run and the register that a scalar command of the width takes give its digest. -/
theorem digest_run_eq_wordDigest (wide : Bool) (bits : Word64) (seed : Word32) (w : Working) :
    (if wide = true then digest64 else digest32) ((if wide = true then runHash64 else runHash32) bits seed w) =
      wordDigest wide bits seed := by
  cases wide
  · exact congrArg placeDigest32 (runHash32_h_eq_coreHash32 bits seed w)
  · exact runHash64_h1_eq_coreHash64 bits seed w

/-- The run and the register that a buffer command of the width takes give its digest. -/
theorem digest_run_eq_bufferDigest (wide : Bool) (B : List Byte) (seed : Word32) (w : Working) :
    (if wide = true then digest64 else digest32) ((if wide = true then runHash64Buf else runHash32Buf) B seed w) =
      bufferDigest wide B seed := by
  cases wide
  · exact congrArg placeDigest32 (runHash32Buf_h_eq_coreHash32Buf B seed w)
  · exact runHash64Buf_h1_eq_coreHash64Buf B seed w

/-! ## Closed gate (43_null_seed_contract.md R152) -/

theorem vtype_of_wf {i : Instr} (hwf : i.wf = true) (hb : i.buffer = false) : ∃ t, i.args.vtype = .scalar t := by
  have hlegal : i.args.vtype.legal = true := by
    cases i
    case hashValue32 | hashValue32Seeded | hashValue64 | hashValue64Seeded => exact hwf
    all_goals cases hb
  cases hv : i.args.vtype with
  | scalar t => exact ⟨t, rfl⟩
  | reserved k => rw [hv] at hlegal; cases hlegal

theorem wf_of_buffer {i : Instr} (hb : i.buffer = true) : i.wf = true := by
  cases i
  case hashBuf32 | hashBuf32Seeded | hashBuf64 | hashBuf64Seeded => rfl
  all_goals cases hb

/-- A legal command with its gate closed is the sentinel. -/
theorem exec_of_gate_closed {i : Instr} (s : State) (hwf : i.wf = true) (hg : i.gate = false) :
    exec i s = .next (takeSentinel s) := by
  have hg : gateOpen i.seeded i.args = false := hg
  cases hb : i.buffer with
  | true => rw [exec_buffer s hb, bufferCommand, hg, if_neg Bool.false_ne_true]
  | false =>
    obtain ⟨t, ht⟩ := vtype_of_wf hwf hb
    simp only [exec_scalar s hb, scalarCommand, ht, hg, if_neg Bool.false_ne_true]

theorem exec_ended_of_gate_closed {i : Instr} (s : State) (hwf : i.wf = true) (hg : i.gate = false) :
    ∃ w, exec i s = .next (s.ended ⟨.ok, 0⟩ w) :=
  ⟨s.work, exec_of_gate_closed s hwf hg⟩

/-- Settles O38: either flag closes the gate, and a closed gate is the sentinel. -/
theorem closedGateGivesTheSentinel : Obligations.ClosedGateGivesTheSentinel := by
  refine ⟨fun i s hwf hvalid => ?_, fun i s hwf hseeded hseed => ?_, fun i hseeded => ?_⟩
  · exact exec_ended_of_gate_closed s hwf (gateOpen_of_invalid i.seeded hvalid)
  · exact exec_ended_of_gate_closed s hwf (by rw [Instr.gate, hseeded, gateOpen_seeded, hseed, Bool.and_false])
  · rw [Instr.gate, hseeded, gateOpen_unseeded]

/-! ## Scalar commands (43_null_seed_contract.md R154 to R157) -/

/-- A legal scalar command answers the digest of its converted value where the gate is open, else the sentinel. -/
theorem exec_scalar_answers {i : Instr} {t : ScalarType} (s : State) (hb : i.buffer = false)
    (ht : i.args.vtype = .scalar t) :
    ∃ w, exec i s = .next (s.ended
      ⟨.ok, if i.gate = true
        then wordDigest i.wide (toBits t i.args.operand) (effectiveSeed i.seeded i.args) else 0⟩ w) := by
  rw [exec_scalar s hb, Instr.gate]
  obtain ⟨k, hk, -⟩ | ⟨t', ht', hg, he⟩ | ⟨t', ht', hg, he⟩ := scalarCommand_cases
    (if i.wide = true then runHash64 else runHash32) (if i.wide = true then digest64 else digest32) i.seeded i.args s
  · rw [ht] at hk
    cases hk
  · obtain rfl : t = t' := VType.scalar.inj (ht.symm.trans ht')
    rw [he, hg, if_pos rfl, digest_run_eq_wordDigest]
    exact ⟨_, rfl⟩
  · rw [he, hg, if_neg Bool.false_ne_true]
    exact ⟨s.work, rfl⟩

/-- Settles O30: the scalar contract of a 32-bit command without a seed. -/
theorem hashValue32Answers : Obligations.HashValue32Answers := by
  intro t c s ht
  simpa only [Instr.gate, gateOpen_unseeded, Instr.seeded, Instr.wide, Instr.args, wordDigest_narrow,
    effectiveSeed_unseeded] using exec_scalar_answers (i := .hashValue32 c) s rfl ht

/-- Settles O31: the scalar contract of a 32-bit command with a seed. -/
theorem hashValue32SeededAnswers : Obligations.HashValue32SeededAnswers := by
  intro t c s ht
  simpa only [Instr.gate, gateOpen_seeded, Instr.seeded, Instr.wide, Instr.args, wordDigest_narrow,
    effectiveSeed_seeded, Bool.and_eq_true] using exec_scalar_answers (i := .hashValue32Seeded c) s rfl ht

/-- Settles O32: the scalar contract of a 64-bit command without a seed. -/
theorem hashValue64Answers : Obligations.HashValue64Answers := by
  intro t c s ht
  simpa only [Instr.gate, gateOpen_unseeded, Instr.seeded, Instr.wide, Instr.args, wordDigest_wide,
    effectiveSeed_unseeded] using exec_scalar_answers (i := .hashValue64 c) s rfl ht

/-- Settles O33: the scalar contract of a 64-bit command with a seed. -/
theorem hashValue64SeededAnswers : Obligations.HashValue64SeededAnswers := by
  intro t c s ht
  simpa only [Instr.gate, gateOpen_seeded, Instr.seeded, Instr.wide, Instr.args, wordDigest_wide,
    effectiveSeed_seeded, Bool.and_eq_true] using exec_scalar_answers (i := .hashValue64Seeded c) s rfl ht

/-! ## Buffer commands (43_null_seed_contract.md R158 to R161) -/

section
variable {i : Instr} {s : State} (hb : i.buffer = true) (hg : i.gate = true) (hl : DefinedLaunch i.args s)
include hb hg hl

/-- A defined launch with the gate open answers as its reads end: READ_FAULT, or the digest of the bytes read. -/
theorem exec_buffer_of_launch :
    (∃ a, readBytes s i.args.operand.toNat i.args.len.toNat = .error (.readFault a) ∧
      exec i s = .next (takeAbnormal (.readFault a) s)) ∨
    (∃ B w, readBytes s i.args.operand.toNat i.args.len.toNat = .ok B ∧
      exec i s = .next (s.ended ⟨.ok, bufferDigest i.wide B (effectiveSeed i.seeded i.args)⟩ w)) := by
  have hgate : gateOpen i.seeded i.args = true := hg
  have hlaunch : launchRefusal i.args s = none := (launchRefusal_eq_none i.args s).mpr hl
  rw [exec_buffer s hb]
  obtain ⟨hclosed, -⟩ | ⟨-, r, hrefused, -⟩ | ⟨-, -, e, hread, he⟩ | ⟨-, -, B, hread, he⟩ := bufferCommand_cases
    (if i.wide = true then runHash64Buf else runHash32Buf) (if i.wide = true then digest64 else digest32) i.seeded
    i.args s
  · rw [hgate] at hclosed
    cases hclosed
  · rw [hlaunch] at hrefused
    cases hrefused
  · obtain ⟨a, rfl, -⟩ := readBytes_error hread
    exact .inl ⟨a, hread, he⟩
  · rw [digest_run_eq_bufferDigest] at he
    exact .inr ⟨B, _, hread, he⟩

/-- Whatever bytes the port answers over the range, racing or not, the command answers their digest. -/
theorem exec_buffer_of_portAnswers {B : List Byte} (hlen : B.length = i.args.len.toNat)
    (hp : PortAnswers s i.args.operand.toNat B) :
    ∃ w, exec i s = .next (s.ended ⟨.ok, bufferDigest i.wide B (effectiveSeed i.seeded i.args)⟩ w) := by
  have hbytes : readBytes s i.args.operand.toNat i.args.len.toNat = .ok B := hlen ▸ readBytes_of_bytes hp
  obtain ⟨a, hread, -⟩ | ⟨B', w, hread, he⟩ := exec_buffer_of_launch hb hg hl
  · rw [hbytes] at hread
    cases hread
  · obtain rfl : B = B' := Except.ok.inj (hbytes.symm.trans hread)
    exact ⟨w, he⟩

/-- An unreadable byte in the range ends the command with READ_FAULT, whatever races with it (log entry 5). -/
theorem exec_buffer_of_unreadable {a : Nat} (hlo : i.args.operand.toNat ≤ a)
    (hhi : a < i.args.operand.toNat + i.args.len.toNat) (hr : s.isReadable a = false) :
    ∃ g w, exec i s = .next (s.ended ⟨.readFault, g⟩ w) := by
  obtain ⟨x, hfail⟩ := readBytes_unreadable hlo hhi ((portRead_eq_none s a).mpr hr)
  obtain ⟨y, -, he⟩ | ⟨B, w, hread, -⟩ := exec_buffer_of_launch hb hg hl
  · exact ⟨_, s.work, he⟩
  · rw [hfail] at hread
    cases hread

end

/-- The contract of a buffer command: the sentinel, the digest of the bytes that stand there or that the port answers,
or READ_FAULT. -/
theorem exec_buffer_answers {i : Instr} (s : State) (hb : i.buffer = true) :
    (¬ i.gate = true → ∃ w, exec i s = .next (s.ended ⟨.ok, 0⟩ w)) ∧
    (∀ B, i.gate = true → HostDuty i.args s B →
      ∃ w, exec i s = .next (s.ended ⟨.ok, bufferDigest i.wide B (effectiveSeed i.seeded i.args)⟩ w)) ∧
    (∀ B, i.gate = true → DefinedLaunch i.args s → B.length = i.args.len.toNat →
      PortAnswers s i.args.operand.toNat B →
      ∃ w, exec i s = .next (s.ended ⟨.ok, bufferDigest i.wide B (effectiveSeed i.seeded i.args)⟩ w)) ∧
    (∀ a, i.gate = true → DefinedLaunch i.args s → NoRace s i.args.operand.toNat i.args.len.toNat →
      i.args.operand.toNat ≤ a → a < i.args.operand.toNat + i.args.len.toNat → s.isReadable a = false →
      ∃ g w, exec i s = .next (s.ended ⟨.readFault, g⟩ w)) := by
  refine ⟨fun hg => ?_, fun B hg hduty => ?_, fun B hg hl hlen hp => ?_, fun a hg hl _ hlo hhi hr => ?_⟩
  · exact exec_ended_of_gate_closed s (wf_of_buffer hb) (Bool.eq_false_iff.mpr hg)
  · have ⟨hl, hlen, _⟩ := hduty
    exact exec_buffer_of_portAnswers hb hg hl hlen hduty.portAnswers
  · exact exec_buffer_of_portAnswers hb hg hl hlen hp
  · exact exec_buffer_of_unreadable hb hg hl hlo hhi hr

/-- Settles O34: the buffer contract of a 32-bit command without a seed. -/
theorem hashBuf32Answers : Obligations.HashBuf32Answers := by
  intro c s
  simpa only [Instr.gate, gateOpen_unseeded, Instr.seeded, Instr.wide, Instr.args, bufferDigest_narrow,
    effectiveSeed_unseeded, Bool.not_eq_true] using exec_buffer_answers (i := .hashBuf32 c) s rfl

/-- Settles O35: the buffer contract of a 32-bit command with a seed. -/
theorem hashBuf32SeededAnswers : Obligations.HashBuf32SeededAnswers := by
  intro c s
  simpa only [Instr.gate, gateOpen_seeded, Instr.seeded, Instr.wide, Instr.args, bufferDigest_narrow,
    effectiveSeed_seeded, Bool.and_eq_true, and_imp] using exec_buffer_answers (i := .hashBuf32Seeded c) s rfl

/-- Settles O36: the buffer contract of a 64-bit command without a seed. -/
theorem hashBuf64Answers : Obligations.HashBuf64Answers := by
  intro c s
  simpa only [Instr.gate, gateOpen_unseeded, Instr.seeded, Instr.wide, Instr.args, bufferDigest_wide,
    effectiveSeed_unseeded, Bool.not_eq_true] using exec_buffer_answers (i := .hashBuf64 c) s rfl

/-- Settles O37: the buffer contract of a 64-bit command with a seed. -/
theorem hashBuf64SeededAnswers : Obligations.HashBuf64SeededAnswers := by
  intro c s
  simpa only [Instr.gate, gateOpen_seeded, Instr.seeded, Instr.wide, Instr.args, bufferDigest_wide,
    effectiveSeed_seeded, Bool.and_eq_true, and_imp] using exec_buffer_answers (i := .hashBuf64Seeded c) s rfl

end Sys2Proof.Machine
end

section
/-! PROOFS. The abnormal responses (60_exceptions.md R170, R171): what each STATUS says of the command that answers it,
said once over the axes of OP, and the two statements about STATUS 1 and STATUS 2. -/

namespace Sys2Proof.Machine

/-! ## What a STATUS says of its command -/

/-- What holds of a command run in `s` that answers with the STATUS: nothing of OK; an illegal command of
ILLEGAL_DESCRIPTOR; a buffer command with the gate open and a byte of its range that the port refuses of READ_FAULT. -/
def StatusCause (i : Instr) (s : State) : Status → Prop
  | .ok => True
  | .illegalDescriptor => i.wf = false
  | .readFault => i.buffer = true ∧ i.gate = true ∧
      ∃ a, i.args.operand.toNat ≤ a ∧ a < i.args.operand.toNat + i.args.len.toNat ∧ portRead s a = none

theorem wf_eq_false_of_reserved {i : Instr} {k : Fin 5} (hb : i.buffer = false) (hk : i.args.vtype = .reserved k) :
    i.wf = false := by
  refine Bool.eq_false_iff.mpr fun hwf => ?_
  obtain ⟨t, ht⟩ := vtype_of_wf hwf hb
  rw [hk] at ht
  cases ht

section
variable {i : Instr} {s t : State} {r : Response} (h : exec i s = .next t) (hr : t.control = .done r)
include h hr

/-- A scalar command answers abnormally only for its VTYPE. -/
theorem statusCause_of_exec_scalar (hb : i.buffer = false) : StatusCause i s r.status := by
  rw [exec_scalar s hb] at h
  obtain ⟨k, hk, he⟩ | ⟨_, -, -, he⟩ | ⟨_, -, -, he⟩ := scalarCommand_cases
    (if i.wide = true then runHash64 else runHash32) (if i.wide = true then digest64 else digest32) i.seeded i.args s
    <;> rw [he] at h <;> cases h <;> cases hr
  · exact wf_eq_false_of_reserved hb hk
  · trivial
  · trivial

/-- A buffer command answers abnormally only for a byte its reads do not get. -/
theorem statusCause_of_exec_buffer (hb : i.buffer = true) : StatusCause i s r.status := by
  rw [exec_buffer s hb] at h
  obtain ⟨-, he⟩ | ⟨-, _, -, he⟩ | ⟨hg, -, e, hread, he⟩ | ⟨-, -, _, -, he⟩ := bufferCommand_cases
    (if i.wide = true then runHash64Buf else runHash32Buf) (if i.wide = true then digest64 else digest32) i.seeded
    i.args s <;> rw [he] at h <;> cases h <;> cases hr
  · trivial
  · obtain ⟨a, rfl, hrefused⟩ := readBytes_error hread
    exact ⟨hb, hg, a, hrefused⟩
  · trivial

theorem statusCause_of_exec : StatusCause i s r.status := by
  cases hb : i.buffer with
  | false => exact statusCause_of_exec_scalar h hr hb
  | true => exact statusCause_of_exec_buffer h hr hb

end

/-! ## Illegal descriptors (60_exceptions.md R170) -/

/-- A descriptor in flight that does not decode is answered abnormally. -/
theorem step_of_decode_error {s : State} {d : Descriptor} {e : DecodeError} (hc : s.control = .busy d)
    (hw : hostWaits s = true) (hd : decode d = .error e) : step s = .next (takeAbnormal .illegalDescriptor s) := by
  simp only [step, hc, if_pos hw, hd]

/-- Settles O42: the decoder refuses an illegal descriptor, and STATUS 1 has no cause in a legal command. -/
theorem illegalDescriptorsAnswerAbnormally : Obligations.IllegalDescriptorsAnswerAbnormally := by
  refine ⟨fun s d hc hw hillegal => ?_, fun i s t r hwf h hr hstatus => ?_⟩
  · obtain ⟨e, hd⟩ := (illegalDescriptorsAreExactlyThese d).mpr hillegal
    exact ⟨_, s.work, step_of_decode_error hc hw hd⟩
  · have hcause := statusCause_of_exec h hr
    rw [hstatus] at hcause
    exact absurd hwf (Bool.eq_false_iff.mp hcause)

/-! ## Read faults (60_exceptions.md R171) -/

/-- Settles O43: an unreadable byte of a defined launch faults, and a fault's cause is a byte of the range that the port
refuses, so the range is not empty. -/
theorem readFaultsComeFromUnreadableBytes : Obligations.ReadFaultsComeFromUnreadableBytes := by
  refine ⟨fun i s hb hg hl => ⟨?_, ?_⟩, fun s a _ => portRead_eq_none s a, fun i s t g h hr => ?_⟩
  · rintro ⟨a, hlo, hhi, hrefused⟩
    exact exec_buffer_of_unreadable hb hg hl hlo hhi ((portRead_eq_none s a).mp hrefused)
  · rintro ⟨g, w, h⟩
    obtain ⟨-, -, hrefused⟩ := statusCause_of_exec h rfl
    exact hrefused
  · obtain ⟨hb, hg, a, hlo, hhi, -⟩ := statusCause_of_exec h hr
    exact ⟨hb, hg, by omega⟩

end Sys2Proof.Machine
end

section
/-! PROOFS. One command at a time, in order (70_reset_and_hazards.md R195): what the turns of the host's side and each step
do to the control state, to a descriptor that is ready, and to the responses taken. -/

namespace Sys2Proof.Machine

/-! ## Control after a turn: only Idle accepts -/

theorem flightTurn_control (s : State) : (flightTurn s).control = s.control ∨ (flightTurn s).control = .idle := by
  obtain h | ⟨a, b, rest, -, h⟩ | ⟨rest, -, h⟩ := flightTurn_cases s <;> rw [h]
  case inr.inr => exact .inr (resetTurn_control s)
  all_goals exact .inl rfl

theorem doneTurn_control (r : Response) (s : State) :
    (doneTurn r s).control = s.control ∨ (doneTurn r s).control = .idle := by
  obtain h | ⟨rest, -, h⟩ | ⟨rest, -, h⟩ | ⟨a, b, rest, -, h⟩ | ⟨rest, -, h⟩ := doneTurn_cases r s <;> rw [h]
  case inr.inr.inl => exact .inr (takeResponse_control r _)
  case inr.inr.inr.inr => exact .inr (resetTurn_control s)
  all_goals exact .inl rfl

/-- A command in flight after a step was accepted from Idle or was in flight before. -/
theorem control_of_step_busy {s t : State} {d : Descriptor} (h : step s = .next t) (ht : t.control = .busy d) :
    s.control = .idle ∨ s.control = .busy d := by
  obtain ⟨hc, -⟩ | ⟨r, -, rfl⟩ | ⟨_, -, -, rfl⟩ | ⟨_, r, w, -, -, rfl⟩ := step_next h
  · exact .inl hc
  · obtain hkept | hidle := doneTurn_control r s
    · exact .inr (hkept ▸ ht)
    · cases hidle.symm.trans ht
  · obtain hkept | hidle := flightTurn_control s
    · exact .inr (hkept ▸ ht)
    · cases hidle.symm.trans ht
  · cases ht

/-! ## A ready descriptor waits -/

theorem hostWaits_of_present {s : State} {d : Descriptor} {ch : Option Nat} {rest : List HostAction}
    (hin : s.inbox = .present d ch :: rest) : hostWaits s = true := by
  rw [hostWaits, hin]
  rfl

theorem doneTurn_of_present (r : Response) {s : State} {d : Descriptor} {ch : Option Nat} {rest : List HostAction}
    (hin : s.inbox = .present d ch :: rest) : doneTurn r s = s := by
  rw [doneTurn, hin]

/-- A descriptor that the host has ready outside Idle is still the next thing it does after a step. -/
theorem inbox_of_step_present {s t : State} {d : Descriptor} {ch : Option Nat} {rest : List HostAction}
    (h : step s = .next t) (hin : s.inbox = .present d ch :: rest) (hc : s.control ≠ .idle) : t.inbox = s.inbox := by
  obtain ⟨hidle, -⟩ | ⟨r, -, rfl⟩ | ⟨_, -, hw, -⟩ | ⟨_, r, w, -, -, rfl⟩ := step_next h
  · exact absurd hidle hc
  · rw [doneTurn_of_present r hin]
  · cases (hostWaits_of_present hin).symm.trans hw
  · exact respond_inbox r w s

/-! ## Responses are taken in order -/

theorem idleTurn_responses (s : State) : (idleTurn s).responses = s.responses := by
  obtain h | ⟨d, ch, rest, d', -, -, h⟩ | ⟨a, b, rest, -, h⟩ | ⟨rest, -, h⟩ := idleTurn_cases s <;> rw [h] <;> rfl

theorem flightTurn_responses (s : State) : (flightTurn s).responses = s.responses := by
  obtain h | ⟨a, b, rest, -, h⟩ | ⟨rest, -, h⟩ := flightTurn_cases s <;> rw [h] <;> rfl

theorem doneTurn_responses (r : Response) (s : State) : (doneTurn r s).responses = s.responses ∨
    (doneTurn r s).control = .idle ∧ (doneTurn r s).responses = s.responses ++ [r] := by
  obtain h | ⟨rest, -, h⟩ | ⟨rest, -, h⟩ | ⟨a, b, rest, -, h⟩ | ⟨rest, -, h⟩ := doneTurn_cases r s <;> rw [h]
  case inr.inr.inl => exact .inr ⟨takeResponse_control r _, takeResponse_responses r _⟩
  all_goals exact .inl rfl

/-- A step takes no response, or the one that waits, after all those taken before. -/
theorem responses_of_step {s t : State} (h : step s = .next t) : t.responses = s.responses ∨
    ∃ r, s.control = .done r ∧ t.control = .idle ∧ t.responses = s.responses ++ [r] := by
  obtain ⟨-, rfl⟩ | ⟨r, hc, rfl⟩ | ⟨_, -, -, rfl⟩ | ⟨_, r, w, -, -, rfl⟩ := step_next h
  · exact .inl (idleTurn_responses s)
  · exact (doneTurn_responses r s).imp_right fun htaken => ⟨r, hc, htaken⟩
  · exact .inl (flightTurn_responses s)
  · exact .inl (respond_responses r w s)

/-- Settles O49: R195's three clauses, each said once of a step. -/
theorem oneCommandAtATimeInOrder : Obligations.OneCommandAtATimeInOrder :=
  fun _ _ h => ⟨fun _ ht => control_of_step_busy h ht, fun _ _ _ hin hc => inbox_of_step_present h hin hc,
    responses_of_step h⟩

end Sys2Proof.Machine
end

section
/-! PROOFS. Encoding and decoding are inverse on the legal descriptors (30_encoding.md R60, R61, R70): what each field
of an encoded descriptor reads back as, and how a descriptor is put together from its fields. -/

namespace Sys2Proof

/-! ## VTYPE codes (30_encoding.md R63) -/

theorem VType.ofCode_code : ∀ v : VType, VType.ofCode v.code = v
  | .scalar t => by cases t <;> rfl
  | .reserved k => by revert k; decide

theorem VType.code_ofCode : ∀ v : BitVec 4, (VType.ofCode v).code = v := by decide

/-! ## The fields of an encoded descriptor -/

section
variable (op : BitVec 4) (c : Args)

theorem ctrlVType_encodeCtrl : ctrlVType (encodeCtrl op c) = c.vtype.code := by
  rw [ctrlVType, encodeCtrl, BitVec.extractLsb'_append_eq_of_le (by decide)]
  exact BitVec.extractLsb'_append_eq_right

theorem ctrlValid_encodeCtrl : ctrlValid (encodeCtrl op c) = c.valid := by
  rw [ctrlValid, encodeCtrl, BitVec.getLsbD_append, if_neg (by decide), BitVec.getLsbD_append, if_neg (by decide),
    BitVec.getLsbD_append, if_pos (by decide)]
  exact BitVec.getLsbD_ofBool _ 0

theorem ctrlSeedValid_encodeCtrl : ctrlSeedValid (encodeCtrl op c) = c.seedValid := by
  rw [ctrlSeedValid, encodeCtrl, BitVec.getLsbD_append, if_neg (by decide), BitVec.getLsbD_append,
    if_neg (by decide), BitVec.getLsbD_append, if_neg (by decide), BitVec.getLsbD_append, if_pos (by decide)]
  cases c.seedValid <;> rfl

end

section
variable (i : Instr)

theorem Descriptor.len_encode : Descriptor.len (encode i) = i.args.len := by
  rw [Descriptor.len, encode, BitVec.extractLsb'_append_eq_of_le (by decide)]
  exact BitVec.extractLsb'_append_eq_right

theorem Descriptor.operand_encode : Descriptor.operand (encode i) = i.args.operand := by
  rw [Descriptor.operand, encode, BitVec.extractLsb'_append_eq_of_le (by decide),
    BitVec.extractLsb'_append_eq_of_le (by decide)]
  exact BitVec.extractLsb'_append_eq_right

theorem Descriptor.seed_encode : Descriptor.seed (encode i) = i.args.seed := by
  rw [Descriptor.seed, encode, BitVec.extractLsb'_append_eq_of_le (by decide),
    BitVec.extractLsb'_append_eq_of_le (by decide)]
  exact BitVec.extractLsb'_append_eq_left

theorem Descriptor.args_encode : Descriptor.args (encode i) = i.args := by
  rw [Descriptor.args, Laws.FixedFields.ctrl_encode, ctrlVType_encodeCtrl, VType.ofCode_code, ctrlValid_encodeCtrl,
    ctrlSeedValid_encodeCtrl, Descriptor.len_encode, Descriptor.operand_encode, Descriptor.seed_encode]

end

/-! ## Decoding what has been encoded -/

/-- Bit 3 of OP is 0, and the other three are BUF, W64 and SEEDED (30_encoding.md R62). -/
theorem Instr.op_bits (i : Instr) : i.op.getLsbD 3 = false ∧ i.op.getLsbD 2 = i.buffer ∧ i.op.getLsbD 1 = i.wide ∧
    i.op.getLsbD 0 = i.seeded := by
  cases i <;> simp [Instr.op, Instr.buffer, Instr.wide, Instr.seeded]

theorem commandOf_axes (i : Instr) : commandOf i.buffer i.wide i.seeded i.args = i := by cases i <;> rfl

/-- A command is well-formed where it hashes a buffer or its VTYPE is legal. -/
theorem Instr.wf_iff (i : Instr) : i.wf = true ↔ (i.buffer = false → i.args.vtype.legal = true) := by
  cases i <;> simp [Instr.wf, Instr.buffer, Instr.args]

theorem Descriptor.command_encode (i : Instr) : Descriptor.command (encode i) = i := by
  obtain ⟨-, hbuf, hwide, hseeded⟩ := Instr.op_bits i
  rw [Descriptor.command, Descriptor.args_encode, (Laws.FixedFields.fixed i).1, hbuf, hwide, hseeded, commandOf_axes]

theorem Descriptor.not_illegal_encode {i : Instr} (hwf : i.wf = true) : ¬ Descriptor.Illegal (encode i) := by
  obtain ⟨hop, hres⟩ := Laws.FixedFields.fixed i
  obtain ⟨hbit3, hbit2, -⟩ := Instr.op_bits i
  have htype : ctrlVType (Descriptor.ctrl (encode i)) = i.args.vtype.code := by
    rw [Laws.FixedFields.ctrl_encode, ctrlVType_encodeCtrl]
  rw [Descriptor.Illegal, hop, hbit3, hbit2, htype]
  rintro (hbits | hreserved | ⟨hb, hcode⟩)
  · exact hbits hres
  · cases hreserved
  · have hlegal := (Instr.wf_iff i).mp hwf hb
    rw [← VType.ofCode_code i.args.vtype, VType.ofCode_legal, decide_eq_true_iff] at hlegal
    omega

/-- Settles O3: an encoded well-formed command is legal, and every field reads back as it was. -/
theorem decodeInvertsEncode : Obligations.DecodeInvertsEncode :=
  fun i hwf => (decode_eq_ok_iff (encode i) i).mpr ⟨Descriptor.not_illegal_encode hwf, Descriptor.command_encode i⟩

/-! ## Encoding what has been decoded -/

@[simp] theorem commandOf_args (buf w64 seeded : Bool) (c : Args) : (commandOf buf w64 seeded c).args = c := by
  cases buf <;> cases w64 <;> cases seeded <;> rfl

theorem ofBool_getLsbD {w : Nat} (x : BitVec w) (j : Nat) : BitVec.ofBool (x.getLsbD j) = x.extractLsb' j 1 := by
  ext k hk
  obtain rfl : k = 0 := by omega
  simp

/-- A control word whose reserved bits are 0 is made of its fields. -/
theorem encodeCtrl_fields {ctrl : Word32} {c : Args} (hres : ctrlReserved ctrl = 0)
    (htype : c.vtype = VType.ofCode (ctrlVType ctrl)) (hvalid : c.valid = ctrlValid ctrl)
    (hseed : c.seedValid = ctrlSeedValid ctrl) : encodeCtrl (ctrlOp ctrl) c = ctrl := by
  rw [encodeCtrl, htype, hvalid, hseed, VType.code_ofCode, ctrlValid, ctrlSeedValid, ofBool_getLsbD, ofBool_getLsbD,
    ← BitVec.ofNat_eq_ofNat, ← hres, ctrlReserved, ctrlVType, ctrlOp,
    BitVec.extractLsb'_append_extractLsb'_eq_extractLsb' (start₁ := 9) (start₂ := 10) rfl,
    BitVec.extractLsb'_append_extractLsb'_eq_extractLsb' (start₁ := 8) (start₂ := 9) rfl,
    BitVec.extractLsb'_append_extractLsb'_eq_extractLsb' (start₁ := 4) (start₂ := 8) rfl,
    BitVec.extractLsb'_append_extractLsb'_eq_extractLsb' (start₁ := 0) (start₂ := 4) rfl]
  exact BitVec.extractLsb'_eq_self

/-- A descriptor is made of its four fields (30_encoding.md R60). -/
theorem Descriptor.fields_append (d : Descriptor) :
    Descriptor.seed d ++ Descriptor.operand d ++ Descriptor.len d ++ Descriptor.ctrl d = d := by
  rw [Descriptor.seed, Descriptor.operand, Descriptor.len, Descriptor.ctrl,
    BitVec.extractLsb'_append_extractLsb'_eq_extractLsb' (start₁ := 64) (start₂ := 128) rfl,
    BitVec.extractLsb'_append_extractLsb'_eq_extractLsb' (start₁ := 32) (start₂ := 64) rfl,
    BitVec.extractLsb'_append_extractLsb'_eq_extractLsb' (start₁ := 0) (start₂ := 32) rfl]
  exact BitVec.extractLsb'_eq_self

theorem Descriptor.command_wf {d : Descriptor} (hlegal : ¬ Descriptor.Illegal d) :
    (Descriptor.command d).wf = true := by
  rw [Instr.wf_iff, Descriptor.command, commandOf_buffer, commandOf_args, Descriptor.args, VType.ofCode_legal,
    decide_eq_true_iff]
  intro hb
  by_contra htype
  exact hlegal (.inr (.inr ⟨hb, by omega⟩))

theorem encode_command {d : Descriptor} (hlegal : ¬ Descriptor.Illegal d) : encode (Descriptor.command d) = d := by
  have hres : ctrlReserved (Descriptor.ctrl d) = 0 := not_not.mp fun hne => hlegal (.inl hne)
  have hargs : (Descriptor.command d).args = Descriptor.args d := commandOf_args ..
  rw [encode, Descriptor.command_op hlegal, hargs, encodeCtrl_fields hres rfl rfl rfl]
  exact Descriptor.fields_append d

/-- Settles O4: a descriptor that decodes is legal, and its command puts the same fields together. -/
theorem encodeInvertsDecode : Obligations.EncodeInvertsDecode := by
  intro d i h
  obtain ⟨hlegal, rfl⟩ := (decode_eq_ok_iff d i).mp h
  exact ⟨Descriptor.command_wf hlegal, encode_command hlegal⟩

end Sys2Proof
end

section
/-! PROOFS. The invariant of the machine (20_memory.md R40, 60_exceptions.md R185): what each turn and each step does to
canonical memory and to the registers and the record of the idle block, and that reset meets it. -/

namespace Sys2Proof.Machine

/-! ## Memory -/

theorem MemFollowsHost.wf {s t : State} (h : MemFollowsHost s t) (hs : Memory.wf s.mem) : Memory.wf t.mem := by
  obtain h | ⟨a, b, rest, -, h⟩ := h <;> rw [h]
  · exact hs
  · exact Memory.write_wf hs a.isLt b

/-! ## The idle block -/

/-- The block is not Idle, or it holds no data and races with nothing (log entries 5, 9). -/
def State.IdleClear (s : State) : Prop :=
  s.control = .idle → s.work = Working.reset ∧ s.overwritten = []

theorem idleClear_of_cleared {s : State} (hw : s.work = Working.reset) (ho : s.overwritten = []) : s.IdleClear :=
  fun _ => ⟨hw, ho⟩

theorem idleClear_of_control_ne {s : State} (hc : s.control ≠ .idle) : s.IdleClear :=
  fun h => absurd h hc

theorem resetTurn_idleClear (s : State) : (resetTurn s).IdleClear :=
  idleClear_of_cleared (resetTurn_work s) (resetTurn_overwritten s)

theorem idleTurn_idleClear {s : State} (hs : s.IdleClear) : (idleTurn s).IdleClear := by
  obtain h | ⟨d, ch, rest, d', -, -, h⟩ | ⟨a, b, rest, -, h⟩ | ⟨rest, -, h⟩ := idleTurn_cases s <;> rw [h]
  · exact hs
  · exact idleClear_of_control_ne (by simp)
  · exact hs
  · exact resetTurn_idleClear s

theorem flightTurn_idleClear {s : State} (hs : s.IdleClear) (hc : s.control ≠ .idle) : (flightTurn s).IdleClear := by
  obtain h | ⟨a, b, rest, -, h⟩ | ⟨rest, -, h⟩ := flightTurn_cases s <;> rw [h]
  · exact hs
  · exact idleClear_of_control_ne hc
  · exact resetTurn_idleClear s

theorem doneTurn_idleClear {r : Response} {s : State} (hs : s.IdleClear) : (doneTurn r s).IdleClear := by
  obtain h | ⟨rest, -, h⟩ | ⟨rest, -, h⟩ | ⟨a, b, rest, -, h⟩ | ⟨rest, -, h⟩ := doneTurn_cases r s <;> rw [h]
  · exact hs
  · exact hs
  · exact idleClear_of_cleared (takeResponse_work r _) (takeResponse_overwritten r _)
  · exact hs
  · exact resetTurn_idleClear s

theorem step_idleClear {s t : State} (hs : s.IdleClear) (h : step s = .next t) : t.IdleClear := by
  obtain ⟨-, rfl⟩ | ⟨r, -, rfl⟩ | ⟨d, hc, -, rfl⟩ | ⟨d, r, w, -, -, rfl⟩ := step_next h
  · exact idleTurn_idleClear hs
  · exact doneTurn_idleClear hs
  · exact flightTurn_idleClear hs (by simp [hc])
  · exact idleClear_of_control_ne (by simp)

/-! ## The invariant -/

/-- Settles O51: a step writes memory only as the host does, and every way back to Idle clears the block. -/
theorem everyStepKeepsTheInvariant : Obligations.EveryStepKeepsTheInvariant :=
  fun _ _ ⟨hmem, hidle⟩ h => ⟨(step_memFollowsHost h).wf hmem, step_idleClear hidle h⟩

/-- Settles O52: nothing is listed in memory, and the registers and the record are those of the idle block. -/
theorem resetMeetsTheInvariant : Obligations.ResetMeetsTheInvariant :=
  ⟨⟨List.Pairwise.nil, fun _ hc => nomatch hc⟩, fun _ => ⟨rfl, rfl⟩⟩

/-- Settles O53: the fields of the reset state. -/
theorem resetIsIdle : Obligations.ResetIsIdle :=
  ⟨rfl, rfl, rfl, fun _ => nofun, fun _ => nofun⟩

end Sys2Proof.Machine
end

section
/-! PROOFS. Little-endian words (00_scope.md R10, 20_memory.md R44): the value and the bytes of `leWord`, and the tail
word as the fallthrough listing accumulates it (42_buffer.md section 3). -/

namespace Sys2Proof.Machine

/-! ## The bits of a word -/

theorem leWord_getLsbD {w : Nat} (B : List Byte) (j : Nat) (hj : j < w) :
    (leWord w B).getLsbD j = (B[j / 8]?.getD 0).getLsbD (j % 8) := by
  induction B generalizing j with
  | nil => simp [leWord]
  | cons b rest ih =>
    rw [leWord, BitVec.getLsbD_or, BitVec.getLsbD_setWidth, BitVec.getLsbD_shiftLeft]
    by_cases hlow : j < 8
    · simp [hj, hlow, Nat.div_eq_of_lt hlow, Nat.mod_eq_of_lt hlow]
    · obtain ⟨k, rfl⟩ : ∃ k, j = k + 8 := ⟨j - 8, by omega⟩
      simp [hj, ih k (by omega)]

theorem extractLsb'_leWord {w : Nat} (B : List Byte) {i : Nat} (hi : i < B.length) (hw : 8 * B.length ≤ w) :
    (leWord w B).extractLsb' (8 * i) 8 = B[i] := by
  refine BitVec.eq_of_getLsbD_eq fun j hj => ?_
  have hbyte : (8 * i + j) / 8 = i := by omega
  have hbit : (8 * i + j) % 8 = j := by omega
  rw [BitVec.getLsbD_extractLsb', leWord_getLsbD B _ (by omega), hbyte, hbit]
  simp [hj, hi]

/-! ## The value of a word -/

theorem byte_append_lt {x n : Nat} (hx : x < 2 ^ (8 * n)) (b : Byte) : 2 ^ 8 * x + b.toNat < 2 ^ (8 * (n + 1)) := by
  have hb := b.isLt
  rw [Nat.mul_succ, Nat.pow_add, Nat.mul_comm _ (2 ^ 8)]
  omega

/-- A byte below a word, where the width holds both. -/
theorem toNat_or_shiftLeft_byte {w : Nat} (b : Byte) (x : BitVec w) (h : 2 ^ 8 * x.toNat + b.toNat < 2 ^ w) :
    (b.setWidth w ||| x <<< 8).toNat = 2 ^ 8 * x.toNat + b.toNat := by
  rw [BitVec.toNat_or, BitVec.toNat_setWidth, BitVec.toNat_shiftLeft, Nat.shiftLeft_eq, Nat.mul_comm _ (2 ^ 8),
    Nat.mod_eq_of_lt (by omega), Nat.mod_eq_of_lt (by omega), Nat.two_pow_add_eq_or_of_lt b.isLt, Nat.or_comm]

/-- The bytes' values at their shifts, from index `n` on. -/
def bytesValue (B : List Byte) (n : Nat) : Nat :=
  ((B.zipIdx n).map (fun p => p.1.toNat * 2 ^ (8 * p.2))).sum

theorem bytesValue_cons (b : Byte) (rest : List Byte) (n : Nat) :
    bytesValue (b :: rest) n = b.toNat * 2 ^ (8 * n) + bytesValue rest (n + 1) := rfl

theorem bytesValue_succ (B : List Byte) (n : Nat) : bytesValue B (n + 1) = 2 ^ 8 * bytesValue B n := by
  induction B generalizing n with
  | nil => rfl
  | cons b rest ih =>
    rw [bytesValue_cons, bytesValue_cons, ih, Nat.mul_add, Nat.mul_succ, Nat.pow_add]
    ring

/-- The value of a word that fits, and that it takes no more bits than its bytes. -/
theorem toNat_leWord {w : Nat} (B : List Byte) (hw : 8 * B.length ≤ w) :
    (leWord w B).toNat = bytesValue B 0 ∧ bytesValue B 0 < 2 ^ (8 * B.length) := by
  induction B with
  | nil => simp [leWord, bytesValue]
  | cons b rest ih =>
    obtain ⟨hval, hlt⟩ := ih (by simp only [List.length_cons] at hw; omega)
    have hcons : bytesValue (b :: rest) 0 = 2 ^ 8 * bytesValue rest 0 + b.toNat := by
      rw [bytesValue_cons, bytesValue_succ]
      omega
    have hfit := byte_append_lt hlt b
    rw [hcons, leWord, toNat_or_shiftLeft_byte, hval]
    · exact ⟨rfl, hfit⟩
    · exact hval ▸ hfit.trans_le (Nat.pow_le_pow_right (by decide) hw)

/-- Settles O12: value and bytes of a word. -/
theorem wordsAreLittleEndian : Obligations.WordsAreLittleEndian :=
  fun _ B hw => ⟨(toNat_leWord B hw).1, fun _ hi => extractLsb'_leWord B hi hw⟩

/-! ## The tail word (42_buffer.md section 3) -/

/-- A byte and a word moved up by a byte share no bit, so "or" and "xor" of them agree. -/
theorem or_shiftLeft_byte_eq_xor {w : Nat} (b : Byte) (x : BitVec w) :
    b.setWidth w ||| x <<< 8 = x <<< 8 ^^^ b.setWidth w := by
  refine BitVec.eq_of_getLsbD_eq fun j hj => ?_
  by_cases hlow : j < 8
  · simp [hlow]
  · simp [BitVec.getLsbD_of_ge b j (by omega)]

/-- The listing from byte index `n` on, run from the last byte down, is the word moved up by `n` bytes. -/
theorem foldr_xor_zipIdx {w : Nat} (T : List Byte) (n : Nat) :
    (T.zipIdx n).foldr (fun (p : Byte × Nat) (k : BitVec w) => k ^^^ p.1.setWidth w <<< (8 * p.2)) 0 =
      leWord w T <<< (8 * n) := by
  induction T generalizing n with
  | nil => simp [leWord]
  | cons b rest ih =>
    rw [List.zipIdx_cons, List.foldr_cons, ih, leWord, or_shiftLeft_byte_eq_xor, BitVec.shiftLeft_xor_distrib,
      ← BitVec.shiftLeft_add, Nat.mul_succ, Nat.add_comm (8 * n)]

/-- Settles O26: the listing from byte 0 on. -/
theorem tailWordIsTheFallthroughListing : Obligations.TailWordIsTheFallthroughListing := by
  intro T _
  rw [List.foldl_reverse, foldr_xor_zipIdx, Nat.mul_zero, BitVec.shiftLeft_zero]

end Sys2Proof.Machine
end

section
/-! PROOFS. The 32-bit primitives and the 32-bit buffer core by their listings (40_primitives.md R97, R98, R103;
42_buffer.md R131 to R134), the fixed points at zero, the empty buffer, and the agreement of the fixed-width and the
buffer cores (41_fixed_width.md R120). -/

namespace Sys2Proof.Machine

/-! ## Listings -/

/-- Settles O10: the definitions are the listings. -/
theorem mixes32FollowTheirListings : Obligations.Mixes32FollowTheirListings :=
  ⟨fun _ => rfl, fun _ _ => rfl, fun _ _ => rfl⟩

/-- The bytes after the last full 4-byte block number `n % 4` (42_buffer.md R132). -/
theorem length_drop_blocks32 (B : List Byte) : (B.drop (4 * (B.length / 4))).length = B.length % 4 := by
  rw [List.length_drop]
  omega

/-- `h` after the full blocks is the blocks' words absorbed in ascending order. -/
theorem blocks32_h_eq_foldl_range (B : List Byte) (nb : Nat) (w : Working) :
    (blocks32 B nb w).h =
      (List.range nb).foldl (fun h i => round32 h (leWord 32 ((B.drop (4 * i)).take 4))) w.h := by
  simp only [blocks32_h, words32, List.foldl_map, slice_add]

/-- Settles O24: blocks, tail and length of the run from the reset registers. -/
theorem hash32OfABuffer : Obligations.Hash32OfABuffer := by
  rintro B seed h rfl
  rw [coreHash32Buf, runHash32Buf, finish32_h, tail32_h, slice_length, length_drop_blocks32, blocks32_h_eq_foldl_range,
    firstBlock_h, start32_h]

/-! ## The empty buffer and the fixed points (40_primitives.md section 7, 42_buffer.md section 4) -/

theorem coreHash32Buf_nil (seed : Word32) : coreHash32Buf [] seed = fmix32 seed := by
  rw [hash32OfABuffer [] seed seed rfl, List.length_nil, Nat.zero_mod, if_neg (Nat.lt_irrefl 0), final32,
    BitVec.xor_zero]

theorem coreHash64Buf_nil (seed : Word32) :
    coreHash64Buf [] seed = final64 (seed.signExtend 64) (seed.signExtend 64) 0 := by
  rw [hash64OfABuffer [] seed (seed.signExtend 64, seed.signExtend 64) 0 rfl rfl, List.length_nil, Nat.zero_mod,
    if_neg (by decide), if_neg (by decide), BitVec.ofNat_eq_ofNat]

/-- Settles O28: no block, no tail, length 0. -/
theorem emptyBufferDigests : Obligations.EmptyBufferDigests :=
  fun seed => ⟨coreHash32Buf_nil seed, coreHash64Buf_nil seed⟩

theorem kmix32_zero : kmix32 0 = 0 := by decide

theorem fmix32_zero : fmix32 0 = 0 := by decide

theorem final64_zero : final64 0 0 0 = 0 := by decide

/-- Settles O11: the mixes at 0 are evaluated; an empty buffer with seed 0 is finalized from 0. -/
theorem zeroIsAFixedPointOfEveryMix : Obligations.ZeroIsAFixedPointOfEveryMix := by
  refine ⟨kmix32_zero, by decide, by decide, fmix32_zero, by decide, fun h => ?_, ?_, ?_⟩
  · rw [kmix32_zero, BitVec.ofNat_eq_ofNat, BitVec.xor_zero]
  · rw [coreHash32Buf_nil, fmix32_zero]
  · rw [coreHash64Buf_nil]
    exact final64_zero

/-! ## Fixed-width and buffer cores (41_fixed_width.md R120) -/

@[simp] theorem length_wordBytes (bits : Word64) : (wordBytes bits).length = 8 := rfl

/-- The `n` bytes of a word from byte `i` on make up its bits from `8 i` on. -/
theorem leWord_wordBytes (bits : Word64) {i n : Nat} (h : i + n ≤ 8) :
    leWord (8 * n) (((wordBytes bits).drop i).take n) = bits.extractLsb' (8 * i) (8 * n) := by
  refine BitVec.eq_of_getLsbD_eq fun j hj => ?_
  have hbyte : j / 8 < n := by omega
  have hindex : i + j / 8 < 8 := by omega
  have hbit : 8 * (i + j / 8) + j % 8 = 8 * i + j := by omega
  rw [leWord_getLsbD _ j hj]
  simp [wordBytes, hbyte, hindex, hj, hbit, Nat.mod_lt]

theorem coreHash32_eq_coreHash32Buf (bits : Word64) (seed : Word32) :
    coreHash32 bits seed = coreHash32Buf (wordBytes bits) seed := by
  have hlow : leWord 32 (((wordBytes bits).drop (4 * 0)).take 4) = bits.extractLsb' 0 32 :=
    leWord_wordBytes bits (i := 0) (n := 4) (by decide)
  have hhigh : leWord 32 (((wordBytes bits).drop (4 * 1)).take 4) = bits.extractLsb' 32 32 :=
    leWord_wordBytes bits (i := 4) (n := 4) (by decide)
  rw [hash32OfAWord, hash32OfABuffer _ seed _ rfl, length_wordBytes, if_neg (by decide), ← hlow, ← hhigh]
  rfl

theorem coreHash64_eq_coreHash64Buf (bits : Word64) (seed : Word32) :
    coreHash64 bits seed = coreHash64Buf (wordBytes bits) seed := by
  have hword : leWord 64 (((wordBytes bits).drop 0).take (min (8 % 16) 8)) = bits :=
    (leWord_wordBytes bits (i := 0) (n := 8) (by decide)).trans BitVec.extractLsb'_eq_self
  rw [hash64OfAWord, hash64OfABuffer (wordBytes bits) seed (seed.signExtend 64, seed.signExtend 64) 0
    (by rw [length_wordBytes]) (by rw [length_wordBytes]; rfl), length_wordBytes, if_pos (by decide),
    if_neg (by decide), hword]
  rfl

/-- Settles O27: a word is two blocks of the 32-bit core, and one tail word of eight bytes of the 64-bit core. -/
theorem fixedWidthCoresAgreeWithBufferCores : Obligations.FixedWidthCoresAgreeWithBufferCores :=
  fun bits seed => ⟨coreHash32_eq_coreHash32Buf bits seed, coreHash64_eq_coreHash64Buf bits seed⟩

end Sys2Proof.Machine
end

section
/-! PROOFS. The conversions of scalars (41_fixed_width.md R110 to R117): each row of `to_bits` as the conversion of the
integer it stands for, and the bits of OPERAND that a row reads. -/

namespace Sys2Proof.Machine

/-! ## Integer rows (41_fixed_width.md R110) -/

theorem signedToF64_natCast (n : Nat) : signedToF64 n = intToF64 false n := by
  rw [signedToF64, decide_eq_false (by omega), Int.natAbs_natCast]

theorem toBits_bool_of_bit {a : Word64} {b : Bool} (h : a.getLsbD 0 = b) :
    toBits .bool a = if b = true then 0x3ff0000000000000 else 0 := by
  rw [toBits, h]
  rfl

theorem extractLsb'_one_toNat (a : Word64) : (a.extractLsb' 0 1).toNat = (a.getLsbD 0).toNat := by
  rw [← ofBool_getLsbD, BitVec.toNat_ofBool]

/-- A boolean is converted as the integer 0 or 1 (K8, K5). -/
theorem toBits_bool (a : Word64) : toBits .bool a = signedToF64 (a.extractLsb' 0 1).toNat := by
  rw [extractLsb'_one_toNat]
  cases hbit : a.getLsbD 0 <;> rw [toBits_bool_of_bit hbit] <;> decide

/-- Every integer or boolean row converts the integer its operand stands for. -/
theorem toBits_of_integerValue {t : ScalarType} {a : Word64} {v : Int} (h : integerValue t a = some v) :
    toBits t a = signedToF64 v := by
  cases t <;> cases h
  case int8 | int16 | int32 | int64 => rfl
  case uint8 | uint16 | uint32 | uint64 => exact (signedToF64_natCast _).symm
  case bool => exact toBits_bool a

/-- Settles O14: the two float rows by definition, the others through the integer. -/
theorem scalarsGoThroughTheirConversions : Obligations.ScalarsGoThroughTheirConversions :=
  ⟨toBits_float64, fun _ => rfl, fun _ _ _ => toBits_of_integerValue⟩

/-- Settles O15: the row reads bit 0. -/
theorem booleanIsOneOrZero : Obligations.BooleanIsOneOrZero :=
  fun _ => toBits_bool_of_bit rfl

/-- Settles O20: both words are the conversion of the one integer; the pattern of 5.0 is evaluated. -/
theorem equalIntegersHaveEqualWords : Obligations.EqualIntegersHaveEqualWords := by
  have h8 : toBits .int8 5 = signedToF64 5 := toBits_of_integerValue rfl
  have h32 : toBits .int32 5 = signedToF64 5 := toBits_of_integerValue rfl
  refine ⟨fun t u a b v ha hb => ?_, h8.trans h32.symm, h32.trans ?_⟩
  · rw [toBits_of_integerValue ha, toBits_of_integerValue hb]
  · rw [toBits_float64]
    decide

/-! ## The bits of OPERAND that a row reads (30_encoding.md R63) -/

theorem integerValue_congr {t : ScalarType} {a b : Word64} (h : a.extractLsb' 0 t.width = b.extractLsb' 0 t.width) :
    integerValue t a = integerValue t b := by
  cases t
  case int64 | uint64 =>
    obtain rfl : a = b := by rwa [ScalarType.width, BitVec.extractLsb'_eq_self, BitVec.extractLsb'_eq_self] at h
    rfl
  all_goals simp only [integerValue, ScalarType.width] at h ⊢
  all_goals rw [h]

/-- Settles O21: a float row reads its bits, and any other row the integer made of them. -/
theorem upperOperandBitsAreIgnored : Obligations.UpperOperandBitsAreIgnored := by
  intro t a b h
  cases hv : integerValue t a with
  | some v => rw [toBits_of_integerValue hv, toBits_of_integerValue (integerValue_congr h ▸ hv)]
  | none =>
    cases t
    case float64 => rwa [ScalarType.width, BitVec.extractLsb'_eq_self, BitVec.extractLsb'_eq_self] at h
    case float32 => exact congrArg f32ToF64 h
    all_goals cases hv

end Sys2Proof.Machine
end

section
/-! PROOFS. Binary64 patterns by their fields, and what an integer converts to (41_fixed_width.md R112, R113): a small
one exactly, a large one to nearest with ties to even. -/

namespace Sys2Proof.Machine

/-! ## Binary64 patterns by their fields -/

@[simp] theorem msb_append_double (sign : BitVec 1) (exponent : BitVec 11) (fraction : BitVec 52) :
    (sign ++ exponent ++ fraction).msb = sign.msb := by
  rw [BitVec.msb_append, BitVec.msb_append]
  rfl

theorem ofNat_append_double {e f : Nat} (neg : Bool) (he : e < 2 ^ 11) (hf : f < 2 ^ 52) :
    BitVec.ofNat 64 ((if neg then 2 ^ 63 else 0) + e * 2 ^ 52 + f) =
      BitVec.ofBool neg ++ BitVec.ofNat 11 e ++ BitVec.ofNat 52 f := by
  refine BitVec.eq_of_toNat_eq ?_
  rw [BitVec.toNat_append, BitVec.toNat_append, ← Nat.shiftLeft_add_eq_or_of_lt (BitVec.isLt _),
    ← Nat.shiftLeft_add_eq_or_of_lt (BitVec.isLt _), BitVec.toNat_ofNat, BitVec.toNat_ofNat, BitVec.toNat_ofNat,
    Nat.mod_eq_of_lt he, Nat.mod_eq_of_lt hf, Nat.shiftLeft_eq, Nat.shiftLeft_eq]
  cases neg <;> simp <;> omega

/-- `w` is the finite double with the sign and the biased exponent `e` whose 53-bit significand is `r`. -/
def IsDouble (w : Word64) (neg : Bool) (e r : Nat) : Prop :=
  w.msb = neg ∧ doubleExponent w = e ∧ 2 ^ 52 + doubleFraction w = r

theorem isDouble_append {neg : Bool} {e r f : Nat} (he : e < 2 ^ 11) (hlo : 2 ^ 52 ≤ r)
    (hf : f % 2 ^ 52 = r - 2 ^ 52) :
    IsDouble (BitVec.ofBool neg ++ BitVec.ofNat 11 e ++ BitVec.ofNat 52 f) neg e r := by
  refine ⟨?_, ?_, ?_⟩
  · rw [msb_append_double, BitVec.msb_ofBool]
  · rw [doubleExponent_append, BitVec.toNat_ofNat, Nat.mod_eq_of_lt he]
  · rw [doubleFraction_append, BitVec.toNat_ofNat, hf, Nat.add_sub_cancel' hlo]

theorem intToF64_of_ne_zero (neg : Bool) {m : Nat} (hm : m ≠ 0) :
    intToF64 neg m = BitVec.ofNat 64
      ((if neg then 2 ^ 63 else 0) + (m.log2 + 1023) * 2 ^ 52 + (roundedSignificand m m.log2 - 2 ^ 52)) :=
  if_neg hm

/-- The sum of `int_to_f64` puts exponent and significand together where it carries to exponent `e` and leaves `r`. -/
theorem isDouble_intToF64 {neg : Bool} {m e r : Nat} (hm : m ≠ 0) (he : e < 2 ^ 11) (hlo : 2 ^ 52 ≤ r)
    (hhi : r < 2 ^ 53)
    (hsum : (m.log2 + 1023) * 2 ^ 52 + (roundedSignificand m m.log2 - 2 ^ 52) = e * 2 ^ 52 + (r - 2 ^ 52)) :
    IsDouble (intToF64 neg m) neg e r := by
  rw [intToF64_of_ne_zero neg hm, Nat.add_assoc, hsum, ← Nat.add_assoc, ofNat_append_double neg he (by omega)]
  exact isDouble_append he hlo (Nat.mod_eq_of_lt (by omega))

/-! ## Small integers (41_fixed_width.md R112) -/

theorem mul_two_pow_normalized {m p k : Nat} (hlo : 2 ^ p ≤ m) (hhi : m < 2 ^ (p + 1)) (hp : p ≤ k) :
    2 ^ k ≤ m * 2 ^ (k - p) ∧ m * 2 ^ (k - p) < 2 ^ (k + 1) := by
  have hk : k = p + (k - p) := by omega
  have hk1 : k + 1 = p + 1 + (k - p) := by omega
  constructor
  · calc 2 ^ k = 2 ^ p * 2 ^ (k - p) := by rw [← Nat.pow_add, ← hk]
      _ ≤ m * 2 ^ (k - p) := Nat.mul_le_mul_right _ hlo
  · calc m * 2 ^ (k - p) < 2 ^ (p + 1) * 2 ^ (k - p) := Nat.mul_lt_mul_of_pos_right hhi (by positivity)
      _ = 2 ^ (k + 1) := by rw [← Nat.pow_add, ← hk1]

theorem isDouble_intToF64_of_small (neg : Bool) {m : Nat} (hm : m ≠ 0) (hp : m.log2 ≤ 52) :
    IsDouble (intToF64 neg m) neg (m.log2 + 1023) (m * 2 ^ (52 - m.log2)) := by
  obtain ⟨hlo, hhi⟩ := mul_two_pow_normalized (Nat.log2_self_le hm) Nat.lt_log2_self hp
  refine isDouble_intToF64 hm (by omega) hlo hhi ?_
  rw [roundedSignificand, if_pos hp]

/-- Settles O16: the significand is the integer moved up to bit 52, and the exponent says by how much. -/
theorem smallIntegersConvertExactly : Obligations.SmallIntegersConvertExactly := by
  refine ⟨fun neg => rfl, fun neg m hm hlt => ?_⟩
  have hp : m.log2 < 53 := (Nat.log2_lt hm.ne').mpr hlt
  obtain ⟨hsign, hexp, hsig⟩ := isDouble_intToF64_of_small neg hm.ne' (Nat.le_of_lt_succ hp)
  have hscale : 1075 - (m.log2 + 1023) = 52 - m.log2 := by omega
  rw [hsign, hexp, hsig, hscale]
  exact ⟨rfl, by omega, by omega, rfl⟩

/-! ## Large integers (41_fixed_width.md R113) -/

/-- `r * d` is a multiple of `d` nearest to `m`, and `r` is even where `m` stands halfway between two multiples. -/
def IsNearestEven (r d m : Int) : Prop :=
  2 * |r * d - m| ≤ d ∧ (2 * |r * d - m| = d → r % 2 = 0)

theorem IsNearestEven.le_of_multiple {r d m : Int} (h : IsNearestEven r d m) (x : Int) :
    |r * d - m| ≤ |x * d - m| ∧ (|x * d - m| = |r * d - m| → x * d ≠ r * d → r % 2 = 0) := by
  obtain ⟨hnear, heven⟩ := h
  by_cases hx : x = r
  · rw [hx]
    exact ⟨le_rfl, fun _ hne => absurd rfl hne⟩
  · have hd : 0 ≤ d := by linarith [abs_nonneg (r * d - m)]
    have hgap : d ≤ |x * d - r * d| := by
      rw [← sub_mul, abs_mul, abs_of_nonneg hd]
      exact le_mul_of_one_le_left hd (Int.one_le_abs (sub_ne_zero.mpr hx))
    have htriangle := abs_sub_le (x * d) m (r * d)
    rw [abs_sub_comm m] at htriangle
    exact ⟨by linarith, fun heq _ => heven (by linarith)⟩

section
variable {q rem d h m : Int} (hd : d = 2 * h) (hm : m = d * q + rem)
include hd hm

theorem isNearestEven_down (h0 : 0 ≤ rem) (hle : rem ≤ h) (htie : rem = h → q % 2 = 0) : IsNearestEven q d m := by
  have hdist : |q * d - m| = rem := by
    rw [hm, mul_comm d, sub_add_cancel_left, abs_neg, abs_of_nonneg h0]
  rw [IsNearestEven, hdist]
  exact ⟨by omega, fun heq => htie (by omega)⟩

theorem isNearestEven_up (hle : h ≤ rem) (hlt : rem < d) (htie : rem = h → q % 2 = 1) :
    IsNearestEven (q + 1) d m := by
  have hdist : |(q + 1) * d - m| = d - rem := by
    rw [hm, ← abs_of_nonneg (sub_nonneg.mpr hlt.le)]
    congr 1
    ring
  rw [IsNearestEven, hdist]
  refine ⟨by omega, fun heq => ?_⟩
  have := htie (by omega)
  omega

end

/-- `m` is rounded to a multiple of its last place, by the remainder's place to the half of it. -/
theorem isNearestEven_roundedSignificand {m p : Nat} (hp : 52 < p) :
    IsNearestEven (roundedSignificand m p) (2 ^ (p - 52)) m := by
  have hhalf : ((2 ^ (p - 52) : Nat) : Int) = 2 * (2 ^ (p - 52 - 1) : Nat) := by
    exact_mod_cast (mul_pow_sub_one (by omega) 2).symm
  have hlt := Nat.mod_lt m (Nat.two_pow_pos (p - 52))
  have hdiv : (m : Int) = (2 ^ (p - 52) : Nat) * (m / 2 ^ (p - 52) : Nat) + (m % 2 ^ (p - 52) : Nat) := by
    exact_mod_cast (Nat.div_add_mod m (2 ^ (p - 52))).symm
  rw [roundedSignificand, if_neg (by omega)]
  dsimp only
  rw [show (2 : Int) ^ (p - 52) = (2 ^ (p - 52) : Nat) by push_cast; rfl]
  split
  · rw [Nat.cast_succ]
    exact isNearestEven_up hhalf hdiv (by omega) (by omega) (by omega)
  · exact isNearestEven_down hhalf hdiv (by omega) (by omega) (by omega)

theorem roundedSignificand_bounds {m p : Nat} (hp : 52 < p) (hlo : 2 ^ p ≤ m) (hhi : m < 2 ^ (p + 1)) :
    2 ^ 52 ≤ roundedSignificand m p ∧ roundedSignificand m p ≤ 2 ^ 53 := by
  have hqlo : 2 ^ 52 ≤ m / 2 ^ (p - 52) := by
    rwa [Nat.le_div_iff_mul_le (Nat.two_pow_pos _), ← Nat.pow_add, show 52 + (p - 52) = p by omega]
  have hqhi : m / 2 ^ (p - 52) < 2 ^ 53 := by
    rwa [Nat.div_lt_iff_lt_mul (Nat.two_pow_pos _), ← Nat.pow_add, show 53 + (p - 52) = p + 1 by omega]
  rw [roundedSignificand, if_neg (by omega)]
  dsimp only
  split <;> omega

/-- A rounded significand of `2 ^ 53` carries into the exponent; the value is the same. -/
theorem isDouble_intToF64_of_large (neg : Bool) {m : Nat} (hp : 52 < m.log2) (hp64 : m.log2 < 64) :
    ∃ e r, IsDouble (intToF64 neg m) neg e r ∧ 1075 < e ∧ e < 2047 ∧
      r * 2 ^ (e - 1075) = roundedSignificand m m.log2 * 2 ^ (m.log2 - 52) ∧
      (roundedSignificand m m.log2 % 2 = 0 → r % 2 = 0) := by
  have hm : m ≠ 0 := by rintro rfl; simp at hp
  obtain ⟨hlo, hhi⟩ := roundedSignificand_bounds hp (Nat.log2_self_le hm) Nat.lt_log2_self
  obtain hlt | heq := hhi.lt_or_eq
  · refine ⟨m.log2 + 1023, _, isDouble_intToF64 hm (by omega) hlo hlt rfl, by omega, by omega, ?_, id⟩
    rw [show m.log2 + 1023 - 1075 = m.log2 - 52 by omega]
  · refine ⟨m.log2 + 1024, 2 ^ 52, isDouble_intToF64 hm (by omega) le_rfl (by decide) (by omega), by omega, by omega,
      ?_, fun _ => rfl⟩
    rw [heq, ← Nat.pow_add, ← Nat.pow_add, show 52 + (m.log2 + 1024 - 1075) = 53 + (m.log2 - 52) by omega]

/-- A number of fewer than 54 bits that is no multiple of the last place of `m` lies below the highest power of two of
`m`. -/
theorem mul_two_pow_lt_of_lt {q k p : Nat} (hq : q < 2 ^ 53) (hk : k < p - 52) : q * 2 ^ k < 2 ^ p := by
  calc q * 2 ^ k < 2 ^ 53 * 2 ^ k := Nat.mul_lt_mul_of_pos_right hq (Nat.two_pow_pos k)
    _ = 2 ^ (53 + k) := (Nat.pow_add ..).symm
    _ ≤ 2 ^ p := Nat.pow_le_pow_right (by decide) (by omega)

/-- No `q * 2 ^ k` with a significand of 53 bits is nearer to `m` than its rounding; one as near leaves the even one. -/
theorem rounded_nearest {m q k : Nat} (hm : m ≠ 0) (hp : 52 < m.log2) (hq : q < 2 ^ 53) {v : Int}
    (hv : v = roundedSignificand m m.log2 * 2 ^ (m.log2 - 52)) :
    |v - m| ≤ |(q : Int) * 2 ^ k - m| ∧
      (|(q : Int) * 2 ^ k - m| = |v - m| → (q : Int) * 2 ^ k ≠ v → roundedSignificand m m.log2 % 2 = 0) := by
  have hnear := (isNearestEven_roundedSignificand (m := m) hp).le_of_multiple
  rw [← hv] at hnear
  by_cases hk : m.log2 - 52 ≤ k
  · have hmultiple : (q : Int) * 2 ^ k = q * 2 ^ (k - (m.log2 - 52)) * 2 ^ (m.log2 - 52) := by
      rw [mul_assoc, ← pow_add, Nat.sub_add_cancel hk]
    rw [hmultiple]
    exact ⟨(hnear _).1, fun heq hne => by exact_mod_cast (hnear _).2 heq hne⟩
  · have hlow : (q : Int) * 2 ^ k < 2 ^ m.log2 := by exact_mod_cast mul_two_pow_lt_of_lt hq (by omega)
    have hpow : (2 : Int) ^ m.log2 ≤ m := by exact_mod_cast Nat.log2_self_le hm
    have hle : |v - m| ≤ |2 ^ m.log2 - (m : Int)| := by
      have hmultiple : (2 : Int) ^ m.log2 = 2 ^ 52 * 2 ^ (m.log2 - 52) := by
        rw [← pow_add, Nat.add_sub_cancel' hp.le]
      rw [hmultiple]
      exact (hnear _).1
    rw [abs_of_nonpos (by linarith : 2 ^ m.log2 - (m : Int) ≤ 0)] at hle
    rw [abs_of_nonpos (by linarith : (q : Int) * 2 ^ k - m ≤ 0)]
    exact ⟨by linarith, fun heq _ => by linarith⟩

/-- Settles O17: the double's value is the rounding of `m`, carried or not, and its fraction is even where that is. -/
theorem largeIntegersRoundToNearestEven : Obligations.LargeIntegersRoundToNearestEven := by
  intro neg m hlo hhi w v
  have hm : m ≠ 0 := by omega
  have hp : 52 < m.log2 := (Nat.le_log2 hm).mpr hlo
  obtain ⟨e, r, ⟨hsign, hexp, hsig⟩, he, he', hvalue, heven⟩ :=
    isDouble_intToF64_of_large neg hp ((Nat.log2_lt hm).mpr hhi)
  have hv : v = roundedSignificand m m.log2 * 2 ^ (m.log2 - 52) := by
    rw [show v = (2 ^ 52 + doubleFraction w) * 2 ^ (doubleExponent w - 1075) from rfl, hexp]
    exact_mod_cast hsig ▸ hvalue
  refine ⟨hsign, hexp ▸ he, hexp ▸ he', fun q k hq => ?_⟩
  obtain ⟨hle, htie⟩ := rounded_nearest (k := k) hm hp hq hv
  refine ⟨hle, fun heq hne => ?_⟩
  have hr : (2 ^ 52 + doubleFraction w) % 2 = 0 := hsig ▸ heven (htie heq hne)
  omega

end Sys2Proof.Machine
end

section
/-! PROOFS. A binary32 number that is no NaN widens without loss (41_fixed_width.md R114). -/

namespace Sys2Proof.Machine

/-! ## The branches of the widening -/

theorem sign_eq_ofBool_msb (w : Word32) : w.extractLsb' 31 1 = BitVec.ofBool w.msb := by
  rw [← ofBool_getLsbD]
  rfl

theorem exponentField_eq_zero_iff (w : Word32) : w.extractLsb' 23 8 = 0 ↔ singleExponent w = 0 := by
  rw [← BitVec.toNat_inj]
  rfl

theorem exponentField_eq_255_iff (w : Word32) : w.extractLsb' 23 8 = 255 ↔ singleExponent w = 255 := by
  rw [← BitVec.toNat_inj]
  rfl

theorem fractionField_eq_zero_iff (w : Word32) : w.extractLsb' 0 23 = 0 ↔ singleFraction w = 0 := by
  rw [← BitVec.toNat_inj]
  rfl

/-- A binary32 fraction with 29 zeros below it is a binary64 fraction. -/
theorem append_fraction_zeros (sign : BitVec 1) (exponent : BitVec 11) (fraction : BitVec 23) :
    sign ++ exponent ++ fraction ++ 0#29 = sign ++ exponent ++ BitVec.ofNat 52 (fraction.toNat * 2 ^ 29) := by
  have hfraction : fraction ++ 0#29 = BitVec.ofNat 52 (fraction.toNat * 2 ^ 29) := by
    refine BitVec.eq_of_toNat_eq ?_
    have hlt := fraction.isLt
    rw [BitVec.toNat_append, BitVec.toNat_ofNat, BitVec.toNat_ofNat, Nat.shiftLeft_eq, Nat.zero_mod, Nat.or_zero,
      Nat.mod_eq_of_lt (by omega)]
  rw [← hfraction]
  exact BitVec.append_assoc

/-- The branches of `f32_to_f64`, over the fields of the pattern. -/
theorem f32ToF64_eq (w : Word32) : f32ToF64 w =
    if singleExponent w = 0 then
      if singleFraction w = 0 then BitVec.ofBool w.msb ++ 0#63
      else BitVec.ofBool w.msb ++ BitVec.ofNat 11 ((singleFraction w).log2 + 874) ++
        BitVec.ofNat 52 (singleFraction w * 2 ^ (52 - (singleFraction w).log2))
    else if singleExponent w = 255 then
      if singleFraction w = 0 then BitVec.ofBool w.msb ++ 0x7ff#11 ++ 0#52 else widenNaN w
    else BitVec.ofBool w.msb ++ BitVec.ofNat 11 (singleExponent w + 896) ++
      BitVec.ofNat 52 (singleFraction w * 2 ^ 29) := by
  simp only [f32ToF64, exponentField_eq_zero_iff, exponentField_eq_255_iff, fractionField_eq_zero_iff,
    sign_eq_ofBool_msb, append_fraction_zeros]
  rfl

/-! ## Finite numbers -/

section
variable {w : Word32}

/-- A subnormal number is normalized: its highest one bit moves to bit 52. -/
theorem isDouble_f32ToF64_of_subnormal (he : singleExponent w = 0) (hf : singleFraction w ≠ 0) :
    IsDouble (f32ToF64 w) w.msb ((singleFraction w).log2 + 874)
      (singleFraction w * 2 ^ (52 - (singleFraction w).log2)) := by
  have hlog : (singleFraction w).log2 < 23 := (Nat.log2_lt hf).mpr (w.extractLsb' 0 23).isLt
  obtain ⟨hlo, hhi⟩ := mul_two_pow_normalized (Nat.log2_self_le hf) Nat.lt_log2_self (k := 52) (by omega)
  rw [f32ToF64_eq, if_pos he, if_neg hf]
  exact isDouble_append (by omega) hlo (by omega)

/-- A normal number keeps its fraction, moved up by 29 bits, under the rebiased exponent. -/
theorem isDouble_f32ToF64_of_normal (he0 : singleExponent w ≠ 0) (he : singleExponent w < 255) :
    IsDouble (f32ToF64 w) w.msb (singleExponent w + 896) ((2 ^ 23 + singleFraction w) * 2 ^ 29) := by
  have hf : singleFraction w < 2 ^ 23 := (w.extractLsb' 0 23).isLt
  rw [f32ToF64_eq, if_neg he0, if_neg he.ne]
  exact isDouble_append (by omega) (by omega) (by omega)

end

theorem mul_two_pows_eq (x : Nat) {a b c d e : Nat} (h : a + b + c = d + e) :
    x * 2 ^ a * 2 ^ b * 2 ^ c = x * 2 ^ d * 2 ^ e := by
  rw [Nat.mul_assoc, Nat.mul_assoc, Nat.mul_assoc, ← Nat.pow_add, ← Nat.pow_add, ← Nat.pow_add, ← Nat.add_assoc,
    h]

/-- Settles O18: zeros and infinities by their branch, and a finite number by the exponent and the significand of its
double; the powers of two add up alike on both sides. -/
theorem float32WidensExactly : Obligations.Float32WidensExactly := by
  refine fun w => ⟨fun he hf => ?_, fun he hf => ?_, fun he hne => ?_⟩
  · rw [f32ToF64_eq, if_pos he, if_pos hf]
    cases w.msb <;> rfl
  · rw [f32ToF64_eq, if_neg (by omega), if_pos he, if_pos hf]
    cases w.msb <;> rfl
  · by_cases he0 : singleExponent w = 0
    · have hf : singleFraction w ≠ 0 := fun hf => hne ⟨he0, hf⟩
      have hlog : (singleFraction w).log2 < 23 := (Nat.log2_lt hf).mpr (w.extractLsb' 0 23).isLt
      have hscale : 52 - (singleFraction w).log2 + ((singleFraction w).log2 + 874) + 150 = max 0 1 + 1075 := by omega
      obtain ⟨hsign, hexp, hsig⟩ := isDouble_f32ToF64_of_subnormal he0 hf
      rw [hsign, hexp, hsig, if_pos he0, he0]
      exact ⟨rfl, by omega, by omega, mul_two_pows_eq _ hscale⟩
    · have hscale : 29 + (singleExponent w + 896) + 150 = singleExponent w + 1075 := by omega
      obtain ⟨hsign, hexp, hsig⟩ := isDouble_f32ToF64_of_normal he0 he
      rw [hsign, hexp, hsig, if_neg he0, Nat.max_eq_left (by omega)]
      exact ⟨rfl, by omega, by omega, mul_two_pows_eq _ hscale⟩

end Sys2Proof.Machine
end

section
/-! PROOFS. Which commands are refused, and under which name (60_exceptions.md R173; log entries 14, 19). -/

namespace Sys2Proof.Machine

theorem scalarCommand_ne_refused (core : Word64 → Word32 → Working → Working) (digest : Working → Word64)
    (seeded : Bool) (c : Args) (s : State) (r : Refusal) : scalarCommand core digest seeded c s ≠ .refused r := by
  obtain ⟨_, -, h⟩ | ⟨_, -, -, h⟩ | ⟨_, -, -, h⟩ := scalarCommand_cases core digest seeded c s
    <;> rw [h] <;> nofun

theorem bufferCommand_eq_refused_iff (core : List Byte → Word32 → Working → Working) (digest : Working → Word64)
    (seeded : Bool) (c : Args) (s : State) (r : Refusal) :
    bufferCommand core digest seeded c s = .refused r ↔ gateOpen seeded c = true ∧ launchRefusal c s = some r := by
  obtain ⟨hg, h⟩ | ⟨hg, r', hl, h⟩ | ⟨hg, hl, _, -, h⟩ | ⟨hg, hl, _, -, h⟩ :=
    bufferCommand_cases core digest seeded c s
  · simp [h, hg]
  all_goals simp [h, hg, hl]

/-- A command is refused, under the name of its launch, exactly where it is a buffer command with the gate open. -/
theorem exec_eq_refused_iff (i : Instr) (s : State) (r : Refusal) :
    exec i s = .refused r ↔ i.buffer = true ∧ i.gate = true ∧ launchRefusal i.args s = some r := by
  cases hb : i.buffer with
  | false =>
    rw [exec_scalar s hb]
    exact iff_of_false (scalarCommand_ne_refused _ _ _ _ _ _) (by simp)
  | true => rw [exec_buffer s hb, bufferCommand_eq_refused_iff, Instr.gate, eq_self, true_and]

theorem exists_launchRefusal_iff (c : Args) (s : State) :
    (∃ r, launchRefusal c s = some r) ↔ ¬ DefinedLaunch c s := by
  rw [← launchRefusal_eq_none, ← ne_eq, Option.ne_none_iff_exists']

theorem exec_refused_iff (i : Instr) (s : State) :
    (∃ r, exec i s = .refused r) ↔ i.buffer = true ∧ i.gate = true ∧ ¬ DefinedLaunch i.args s := by
  simp only [exec_eq_refused_iff, exists_and_left, exists_launchRefusal_iff]

theorem launchRefusal_of_negative {c : Args} (s : State) (h : c.len.msb = true) :
    launchRefusal c s = some .negativeLength := if_pos h

theorem launchRefusal_of_wrap {c : Args} (s : State) (h : c.len.msb = false)
    (hw : 2 ^ 64 < c.operand.toNat + c.len.toNat) : launchRefusal c s = some .rangeWraps := by
  rw [launchRefusal, h, if_neg Bool.false_ne_true]
  exact if_pos hw

/-- Settles O44: a refusal is that of the launch, whose checks are made in order; there is no fault to raise. -/
theorem onlyUndefinedLaunchesAreRefused : Obligations.OnlyUndefinedLaunchesAreRefused :=
  ⟨exec_refused_iff,
    fun i s hb hg h => (exec_eq_refused_iff i s _).mpr ⟨hb, hg, launchRefusal_of_negative s h⟩,
    fun i s hb hg h hw => (exec_eq_refused_iff i s _).mpr ⟨hb, hg, launchRefusal_of_wrap s h hw⟩,
    fun _ _ f => nomatch f⟩

end Sys2Proof.Machine
end

section
/-! PROOFS. What the host sees of a command (30_encoding.md R75), one equation for each way it can end, and what follows
from these alone: the digests of the 32-bit commands, and what a response does and does not depend on. -/

namespace Sys2Proof.Machine

/-! ## What is seen -/

theorem outcomeSeen_next_of_done {t : State} {r : Response} (h : t.control = .done r) :
    outcomeSeen (.next t) = some r.seen := by
  rw [outcomeSeen, h]

@[simp] theorem outcomeSeen_ended (s : State) (r : Response) (w : Working) :
    outcomeSeen (.next (s.ended r w)) = some r.seen := rfl

@[simp] theorem outcomeSeen_refused (r : Refusal) : outcomeSeen (.refused r) = none := rfl

@[simp] theorem seen_ok (d : Word64) : Response.seen ⟨.ok, d⟩ = (.ok, some d) := rfl

/-- What the host sees of a buffer command whose reads have ended so. -/
def seenOfReads (i : Instr) : Except Abnormal (List Byte) → Status × Option Word64
  | .error e => (e.status, none)
  | .ok B => (.ok, some (bufferDigest i.wide B (effectiveSeed i.seeded i.args)))

/-! ## The ways a command can end -/

section
variable {i : Instr} (s : State)

theorem outcomeSeen_exec_of_reserved {k : Fin 5} (hb : i.buffer = false) (hk : i.args.vtype = .reserved k) :
    outcomeSeen (exec i s) = some (.illegalDescriptor, none) := by
  rw [exec_scalar s hb, scalarCommand, hk]
  rfl

theorem outcomeSeen_exec_of_gate_closed (hb : i.buffer = true) (hg : i.gate = false) :
    outcomeSeen (exec i s) = some (.ok, some 0) := by
  obtain ⟨w, h⟩ := exec_ended_of_gate_closed s (wf_of_buffer hb) hg
  rw [h, outcomeSeen_ended, seen_ok]

theorem outcomeSeen_exec_of_scalar {t : ScalarType} (hb : i.buffer = false) (ht : i.args.vtype = .scalar t) :
    outcomeSeen (exec i s) = some (.ok, some (if i.gate = true
      then wordDigest i.wide (toBits t i.args.operand) (effectiveSeed i.seeded i.args) else 0)) := by
  obtain ⟨w, h⟩ := exec_scalar_answers s hb ht
  rw [h, outcomeSeen_ended, seen_ok]

theorem outcomeSeen_exec_of_undefined (hb : i.buffer = true) (hg : i.gate = true) (hl : ¬ DefinedLaunch i.args s) :
    outcomeSeen (exec i s) = none := by
  obtain ⟨r, h⟩ := (exec_refused_iff i s).mpr ⟨hb, hg, hl⟩
  rw [h, outcomeSeen_refused]

theorem outcomeSeen_exec_of_launch (hb : i.buffer = true) (hg : i.gate = true) (hl : DefinedLaunch i.args s) :
    outcomeSeen (exec i s) = some (seenOfReads i (readBytes s i.args.operand.toNat i.args.len.toNat)) := by
  obtain ⟨a, hread, h⟩ | ⟨B, w, hread, h⟩ := exec_buffer_of_launch hb hg hl <;> rw [h, hread] <;> rfl

end

/-! ## The digest of a 32-bit command (30_encoding.md R76) -/

/-- A DIGEST whose upper half repeats bit 31. -/
def IsNarrow (d : Word64) : Prop :=
  d = (d.setWidth 32).signExtend 64

theorem setWidth_signExtend (x : Word32) : (x.signExtend 64).setWidth 32 = x := by
  refine BitVec.eq_of_getLsbD_eq fun j hj => ?_
  rw [BitVec.getLsbD_setWidth, BitVec.getLsbD_signExtend]
  simp [hj, hj.trans (show 32 < 64 by decide)]

theorem isNarrow_signExtend (x : Word32) : IsNarrow (x.signExtend 64) := by
  rw [IsNarrow, setWidth_signExtend]

theorem isNarrow_zero : IsNarrow 0 := isNarrow_signExtend 0

theorem isNarrow_wordDigest (bits : Word64) (seed : Word32) : IsNarrow (wordDigest false bits seed) :=
  isNarrow_signExtend _

theorem isNarrow_bufferDigest (B : List Byte) (seed : Word32) : IsNarrow (bufferDigest false B seed) :=
  isNarrow_signExtend _

/-- What a 32-bit command shows with STATUS OK is the sentinel, or the digest of a value, or that of a buffer. -/
theorem isNarrow_of_outcomeSeen {i : Instr} {s : State} {d : Word64} (hw : i.wide = false)
    (h : outcomeSeen (exec i s) = some (.ok, some d)) : IsNarrow d := by
  cases hb : i.buffer with
  | false =>
    cases hv : i.args.vtype with
    | reserved k =>
      rw [outcomeSeen_exec_of_reserved s hb hv] at h
      cases h
    | scalar t =>
      rw [outcomeSeen_exec_of_scalar s hb hv, hw] at h
      cases h
      split
      · exact isNarrow_wordDigest _ _
      · exact isNarrow_zero
  | true =>
    cases hg : i.gate with
    | false =>
      rw [outcomeSeen_exec_of_gate_closed s hb hg] at h
      cases h
      exact isNarrow_zero
    | true =>
      by_cases hl : DefinedLaunch i.args s
      · rw [outcomeSeen_exec_of_launch s hb hg hl] at h
        cases hread : readBytes s i.args.operand.toNat i.args.len.toNat <;> rw [hread, seenOfReads] at h
        · simp at h
        · rw [hw] at h
          cases h
          exact isNarrow_bufferDigest _ _
      · rw [outcomeSeen_exec_of_undefined s hb hg hl] at h
        cases h

/-- Settles O40: what the host sees of the response that `exec` leaves. -/
theorem narrowDigestsAreSignExtended : Obligations.NarrowDigestsAreSignExtended := by
  intro i s t d hw h ht
  refine isNarrow_of_outcomeSeen (s := s) hw ?_
  rw [h, outcomeSeen_next_of_done ht, seen_ok]

/-! ## What a response depends on -/

theorem SameUse.refl (i : Instr) : SameUse i i := by simp [SameUse]

theorem axes_of_op {i j : Instr} (h : i.op = j.op) :
    i.buffer = j.buffer ∧ i.wide = j.wide ∧ i.seeded = j.seeded := by
  obtain ⟨-, hbuf, hwide, hseed⟩ := Instr.op_bits i
  obtain ⟨-, hbuf', hwide', hseed'⟩ := Instr.op_bits j
  rw [← hbuf, ← hbuf', ← hwide, ← hwide', ← hseed, ← hseed', h]
  exact ⟨rfl, rfl, rfl⟩

theorem gateOpen_congr {seeded : Bool} {c e : Args} (hvalid : c.valid = e.valid)
    (hseed : seeded = true → c.seedValid = e.seedValid) : gateOpen seeded c = gateOpen seeded e := by
  cases seeded
  · rw [gateOpen_unseeded, gateOpen_unseeded, hvalid]
  · rw [gateOpen_seeded, gateOpen_seeded, hvalid, hseed rfl]

theorem effectiveSeed_congr {seeded : Bool} {c e : Args}
    (h : seeded = true → c.seed.extractLsb' 0 32 = e.seed.extractLsb' 0 32) :
    effectiveSeed seeded c = effectiveSeed seeded e := by
  cases seeded
  · rfl
  · exact h rfl

theorem seenOfReads_congr {i j : Instr} (hwide : i.wide = j.wide)
    (hseed : effectiveSeed i.seeded i.args = effectiveSeed j.seeded j.args) (R : Except Abnormal (List Byte)) :
    seenOfReads i R = seenOfReads j R := by
  cases R with
  | error e => rfl
  | ok B => rw [seenOfReads, seenOfReads, hwide, hseed]

section
variable {c e : Args} {s u : State} (hlen : c.len = e.len) (hptr : c.len ≠ 0 → c.operand = e.operand)
include hlen hptr

/-- Two launches over the same range, or both over an empty one, are defined together. -/
theorem definedLaunch_congr (hse : s.sideEffecting = u.sideEffecting) : DefinedLaunch c s ↔ DefinedLaunch e u := by
  by_cases h0 : c.len = 0
  · have hempty : ∀ (x : Args) (v : State), x.len = 0 → DefinedLaunch x v := fun x v hx => by
      rw [DefinedLaunch, hx]
      exact ⟨rfl, x.operand.isLt.le, fun _ _ a hlo hhi => absurd hlo (Nat.not_le_of_lt hhi)⟩
    exact iff_of_true (hempty c s h0) (hempty e u (hlen ▸ h0))
  · rw [DefinedLaunch, DefinedLaunch, hlen, hptr h0, hse]

/-- The reads of two such launches end alike where the port answers alike. -/
theorem readBytes_congr_of_range (hport : ∀ a, c.operand.toNat ≤ a → a < c.operand.toNat + c.len.toNat →
    portRead s a = portRead u a) :
    readBytes s c.operand.toNat c.len.toNat = readBytes u e.operand.toNat e.len.toNat := by
  by_cases h0 : c.len = 0
  · rw [← hlen, h0]
    rfl
  · rw [readBytes_congr hport, hptr h0, hlen]

end

/-- Commands that agree on the fields they use are seen alike, where the launch is defined alike and the port answers
alike. -/
theorem outcomeSeen_exec_congr {i j : Instr} {s u : State} (huse : SameUse i j)
    (hstate : i.buffer = true → i.gate = true → s.sideEffecting = u.sideEffecting ∧
      ∀ a, i.args.operand.toNat ≤ a → a < i.args.operand.toNat + i.args.len.toNat →
        portRead s a = portRead u a) :
    outcomeSeen (exec i s) = outcomeSeen (exec j u) := by
  obtain ⟨hop, hvalid, hseedValid, hvtype, hopen⟩ := huse
  obtain ⟨hbuf, hwide, hseeded⟩ := axes_of_op hop
  have hgate : i.gate = j.gate := by rw [Instr.gate, Instr.gate, ← hseeded, gateOpen_congr hvalid hseedValid]
  have hseed (hg : i.gate = true) : effectiveSeed i.seeded i.args = effectiveSeed j.seeded j.args := by
    rw [← hseeded, effectiveSeed_congr (hopen hg).2.2]
  cases hb : i.buffer with
  | false =>
    have hb' : j.buffer = false := hbuf ▸ hb
    cases hv : i.args.vtype with
    | reserved k =>
      rw [outcomeSeen_exec_of_reserved s hb hv, outcomeSeen_exec_of_reserved u hb' (hvtype hb ▸ hv)]
    | scalar t =>
      rw [outcomeSeen_exec_of_scalar s hb hv, outcomeSeen_exec_of_scalar u hb' (hvtype hb ▸ hv), ← hgate, ← hwide]
      split
      case isFalse => rfl
      case isTrue hg => rw [hseed hg, (hopen hg).1 hb]
  | true =>
    have hb' : j.buffer = true := hbuf ▸ hb
    cases hg : i.gate with
    | false =>
      rw [outcomeSeen_exec_of_gate_closed s hb hg,
        outcomeSeen_exec_of_gate_closed u hb' (hgate ▸ hg)]
    | true =>
      obtain ⟨hse, hport⟩ := hstate hb hg
      obtain ⟨-, hrange, -⟩ := hopen hg
      obtain ⟨hlen, hptr⟩ := hrange hb
      have hg' : j.gate = true := hgate ▸ hg
      have hlaunch := definedLaunch_congr hlen hptr hse
      by_cases hl : DefinedLaunch i.args s
      · rw [outcomeSeen_exec_of_launch s hb hg hl, outcomeSeen_exec_of_launch u hb' hg' (hlaunch.mp hl),
          readBytes_congr_of_range hlen hptr hport]
        exact congrArg some (seenOfReads_congr hwide (hseed hg) _)
      · rw [outcomeSeen_exec_of_undefined s hb hg hl, outcomeSeen_exec_of_undefined u hb' hg' (mt hlaunch.mpr hl)]

/-- A command is seen alike in two states in which launches are defined alike and the port answers alike. -/
theorem outcomeSeen_exec_congr_state (i : Instr) {s u : State} (hse : s.sideEffecting = u.sideEffecting)
    (hport : ∀ a, portRead s a = portRead u a) : outcomeSeen (exec i s) = outcomeSeen (exec i u) :=
  outcomeSeen_exec_congr (SameUse.refl i) fun _ _ => ⟨hse, fun a _ _ => hport a⟩

/-- Settles O29: neither the launch nor the port looks at the registers. -/
theorem workingRegistersAreWrittenBeforeRead : Obligations.WorkingRegistersAreWrittenBeforeRead :=
  fun i _ _ => outcomeSeen_exec_congr_state i rfl fun _ => portRead_congr rfl rfl rfl rfl

/-- Settles O46: with no write racing, the port answers by the map and memory alone. -/
theorem responseDependsOnUsedFieldsAndRangeOnly : Obligations.ResponseDependsOnUsedFieldsAndRangeOnly := by
  intro i j s u huse hstate
  refine outcomeSeen_exec_congr huse fun hb hg => ?_
  obtain ⟨hse, hraceS, hraceU, hrange⟩ := hstate hb hg
  refine ⟨hse, fun a hlo hhi => ?_⟩
  obtain ⟨hmap, hmem⟩ := hrange a hlo hhi
  rw [portRead_of_noRace (hraceS a hlo hhi), portRead_of_noRace (hraceU a hlo hhi), ← hmap]
  split
  case isFalse => rfl
  case isTrue hr => rw [hmem hr]

/-! ## No trace of a response that has been taken (60_exceptions.md section 3) -/

/-- Whatever the response and the registers, the state after it has been taken differs in the responses taken alone. -/
theorem outcomeSeen_exec_takeResponse (k : Instr) (s : State) (r q r' q' : Response) (w v : Working) (c e : Control) :
    outcomeSeen (exec k (takeResponse r (respond r' w { s with control := c }))) =
      outcomeSeen (exec k (takeResponse q (respond q' v { s with control := e }))) :=
  outcomeSeen_exec_congr_state k rfl fun _ => portRead_congr rfl rfl rfl rfl

/-- What a step from Busy that answers can be: what the host still does, or the end of the command. -/
theorem step_next_of_busy {s t : State} {d : Descriptor} (hc : s.control = .busy d) (h : step s = .next t) :
    (hostWaits s = false ∧ t = flightTurn s) ∨ ∃ r w, t = respond r w s := by
  obtain ⟨hidle, -⟩ | ⟨q, hdone, -⟩ | ⟨_, -, hw, ht⟩ | ⟨_, r, w, -, -, ht⟩ := step_next h
  · cases hc.symm.trans hidle
  · cases hc.symm.trans hdone
  · exact .inl ⟨hw, ht⟩
  · exact .inr ⟨r, w, ht⟩

/-- A step from Busy to Done is the end of the command. -/
theorem respond_of_step_done {s t : State} {d : Descriptor} {r : Response} (hc : s.control = .busy d)
    (h : step s = .next t) (ht : t.control = .done r) : ∃ w, t = respond r w s := by
  obtain ⟨-, rfl⟩ | ⟨q, w, rfl⟩ := step_next_of_busy hc h
  · obtain hkept | hidle := flightTurn_control s
    · cases hc.symm.trans (hkept.symm.trans ht)
    · cases hidle.symm.trans ht
  · cases ht
    exact ⟨w, rfl⟩

/-- Settles O47: a command leaves `respond`, whether `exec` or a step has run it. -/
theorem noResponseLeavesATrace : Obligations.NoResponseLeavesATrace := by
  refine ⟨fun i j k s t u r q hi _ hj _ => ?_, fun d e k s t u r q hd ht he hu => ?_⟩
  · obtain ⟨r', w, rfl⟩ := exec_next hi
    obtain ⟨q', v, rfl⟩ := exec_next hj
    exact outcomeSeen_exec_takeResponse k s r q r' q' w v s.control s.control
  · obtain ⟨w, rfl⟩ := respond_of_step_done rfl hd ht
    obtain ⟨v, rfl⟩ := respond_of_step_done rfl he hu
    exact outcomeSeen_exec_takeResponse k s r q r q w v (.busy d) (.busy e)

end Sys2Proof.Machine
end

section
/-! PROOFS. The step that runs the command in flight (10_state.md section 2), the printed descriptors, and the order of
the checks (60_exceptions.md section 2). -/

namespace Sys2Proof.Machine

/-- The command in flight is run once the host waits. -/
theorem step_of_decode_ok {s : State} {d : Descriptor} {i : Instr} (hc : s.control = .busy d)
    (hw : hostWaits s = true) (hd : decode d = .ok i) : step s = exec i s := by
  simp only [step, hc, if_pos hw, hd]

/-- Settles O1: the branch of a decoded command. -/
theorem stepRunsTheDecodedCommand : Obligations.StepRunsTheDecodedCommand :=
  fun _ _ _ => step_of_decode_ok

/-- Settles O2: the printed descriptors are evaluated. -/
theorem decodesThePrintedDescriptors : Obligations.DecodesThePrintedDescriptors := by
  unfold Obligations.DecodesThePrintedDescriptors
  decide

/-- A command with the gate open, and every byte of its launch readable, answers OK. -/
theorem exec_ok_of_readable {i : Instr} {s : State} (hwf : i.wf = true)
    (hrange : i.buffer = true → i.gate = true ∧ DefinedLaunch i.args s ∧
      ∀ a, i.args.operand.toNat ≤ a → a < i.args.operand.toNat + i.args.len.toNat → s.isReadable a = true) :
    ∃ g w, exec i s = .next (s.ended ⟨.ok, g⟩ w) := by
  cases hb : i.buffer with
  | false =>
    obtain ⟨t, ht⟩ := vtype_of_wf hwf hb
    obtain ⟨w, h⟩ := exec_scalar_answers s hb ht
    exact ⟨_, w, h⟩
  | true =>
    obtain ⟨hg, hl, hreadable⟩ := hrange hb
    obtain ⟨a, hread, -⟩ | ⟨B, w, -, h⟩ := exec_buffer_of_launch hb hg hl
    · obtain ⟨x, -, hlo, hhi, hrefused⟩ := readBytes_error hread
      cases (hreadable x hlo hhi).symm.trans ((portRead_eq_none s x).mp hrefused)
    · exact ⟨_, w, h⟩

/-- Settles O45: the decoder first; then the step is `exec`, for which each outcome has its lemma. -/
theorem checksAreMadeInOrder : Obligations.ChecksAreMadeInOrder := by
  refine fun s d hc hw => ⟨fun ⟨e, hd⟩ => ⟨_, s.work, step_of_decode_error hc hw hd⟩, fun i hd => ?_⟩
  obtain ⟨hwf, -⟩ := encodeInvertsDecode d i hd
  rw [step_of_decode_ok hc hw hd]
  refine ⟨exec_ended_of_gate_closed s hwf, fun hg hb hl => (exec_refused_iff i s).mpr ⟨hb, hg, hl⟩,
    fun hg hb hl ⟨a, hlo, hhi, hr⟩ => exec_buffer_of_unreadable hb hg hl hlo hhi hr, fun hg hrange => ?_⟩
  exact exec_ok_of_readable hwf fun hb => ⟨hg, hrange hb⟩

end Sys2Proof.Machine
end

section
/-! PROOFS. The response as bits (30_encoding.md R75), and the pseudo-instructions (R79). -/

namespace Sys2Proof.Machine

/-! ## The response -/

theorem Status.code_ne_three (x : Status) : x.code ≠ 3 := by cases x <;> decide

/-- Settles O41: the three fields of the concatenation, and the three codes. -/
theorem responseLayout : Obligations.ResponseLayout := by
  refine ⟨fun r => ⟨?_, ?_, ?_, r.status.code_ne_three⟩, rfl, rfl, rfl⟩
  · rw [Response.bits, BitVec.extractLsb'_append_eq_right]
  · rw [Response.bits, BitVec.extractLsb'_append_eq_of_le (by decide)]
    exact BitVec.extractLsb'_append_eq_right
  · rw [Response.bits, BitVec.extractLsb'_append_eq_of_le (by decide)]
    exact BitVec.extractLsb'_append_eq_left

/-! ## Pseudo-instructions -/

/-- The low half of a literal in 64 bits is the literal in 32 bits. -/
theorem extractLsb'_ofInt (v : Int) : (BitVec.ofInt 64 v).extractLsb' 0 32 = BitVec.ofInt 32 v := by
  refine BitVec.eq_of_toNat_eq ?_
  rw [BitVec.extractLsb'_toNat, BitVec.toNat_ofInt, BitVec.toNat_ofInt, Nat.shiftRight_zero]
  omega

/-- Settles O60: each pseudo-instruction assembles to a command whose contract is known, or is one by definition. -/
theorem pseudoInstructionsRunTheCores : Obligations.PseudoInstructionsRunTheCores := by
  refine ⟨fun bits v s => ⟨?_, ?_⟩, fun ptr v len => ⟨rfl, rfl⟩, fun t value valid seed => ⟨rfl, rfl⟩⟩
  · rw [← extractLsb'_ofInt]
    exact hashValue32SeededAnswers .float64 ⟨.scalar .float64, true, true, 0, bits, BitVec.ofInt 64 v⟩ s rfl
  · rw [← extractLsb'_ofInt]
    exact hashValue64SeededAnswers .float64 ⟨.scalar .float64, true, true, 0, bits, BitVec.ofInt 64 v⟩ s rfl

end Sys2Proof.Machine
end

section
/-! PROOFS. One step for each thing the host can be about to do in each control state (10_state.md section 2;
70_reset_and_hazards.md R190, R193), and the statements about a single such step. -/

namespace Sys2Proof.Machine

/-! ## The turns by the head of the inbox -/

section
variable {s : State} {d : Descriptor} {r : Response} {a : Word64} {b : Byte} {rest : List HostAction}

theorem step_of_idle (hc : s.control = .idle) : step s = .next (idleTurn s) := by
  simp only [step, hc]

theorem step_of_done (hc : s.control = .done r) : step s = .next (doneTurn r s) := by
  simp only [step, hc]

theorem step_of_flight (hc : s.control = .busy d) (hw : hostWaits s = false) : step s = .next (flightTurn s) := by
  simp only [step, hc, hw, if_neg Bool.false_ne_true]

theorem step_of_present {d' : Descriptor} {ch : Option Nat} (hc : s.control = .idle)
    (hin : s.inbox = .present d ch :: rest) (hp : presented s.responses d ch = some d') :
    step s = .next (accept d' { s with inbox := rest }) := by
  simp only [step_of_idle hc, idleTurn, hin, hp]

theorem step_of_write_idle (hc : s.control = .idle) (hin : s.inbox = .write a b :: rest) :
    step s = .next (hostWrite a b { s with inbox := rest }) := by
  rw [step_of_idle hc, idleTurn, hin]

theorem step_of_write_busy (hc : s.control = .busy d) (hin : s.inbox = .write a b :: rest) :
    step s = .next (racingWrite a b { s with inbox := rest }) := by
  rw [step_of_flight hc (by rw [hostWaits, hin]; rfl), flightTurn, hin]

theorem step_of_take (hc : s.control = .done r) (hin : s.inbox = .take :: rest) :
    step s = .next (takeResponse r { s with inbox := rest }) := by
  rw [step_of_done hc, doneTurn, hin]

theorem step_of_write_done (hc : s.control = .done r) (hin : s.inbox = .write a b :: rest) :
    step s = .next (hostWrite a b { s with inbox := rest }) := by
  rw [step_of_done hc, doneTurn, hin]

theorem step_of_await_done (hc : s.control = .done r) (hin : s.inbox = .await :: rest) :
    step s = .next { s with inbox := rest } := by
  rw [step_of_done hc, doneTurn, hin]

/-- Reset comes first in every control state. -/
theorem step_of_reset (hin : s.inbox = .reset :: rest) : step s = .next (resetTurn s) := by
  cases hc : s.control with
  | idle => rw [step_of_idle hc, idleTurn, hin]
  | busy d => rw [step_of_flight hc (by rw [hostWaits, hin]; rfl), flightTurn, hin]
  | done r => rw [step_of_done hc, doneTurn, hin]

end

/-! ## Reset, and taking the response -/

/-- Settles O54: the step is `resetTurn`, field by field. -/
theorem resetAbandonsWhatIsInFlight : Obligations.ResetAbandonsWhatIsInFlight := by
  intro s rest hin
  refine ⟨resetTurn s, step_of_reset hin, rfl, rfl, rfl, rfl, ?_, ?_⟩
  · rw [resetTurn_inbox, hin, List.tail_cons]
  · rw [resetTurn_cut, Bool.or_eq_true, decide_eq_true_iff]

/-- Settles O55: taking is `takeResponse`, and any other turn but reset leaves the latch. -/
theorem responseIsHeldUntilTaken : Obligations.ResponseIsHeldUntilTaken := by
  refine fun s r hc => ⟨fun rest hin => ?_, fun htake hreset => ⟨doneTurn r s, step_of_done hc, ?_⟩⟩
  · exact ⟨_, step_of_take hc hin, rfl, rfl, rfl, rfl⟩
  · obtain h | ⟨rest, -, h⟩ | ⟨rest, hin, -⟩ | ⟨a, b, rest, -, h⟩ | ⟨rest, hin, -⟩ := doneTurn_cases r s
    case inr.inr.inl => exact absurd hin (htake rest)
    case inr.inr.inr.inr => exact absurd hin (hreset rest)
    all_goals rw [h]; exact ⟨hc, rfl⟩

/-! ## The drawing of the control states -/

theorem idleTurn_control {s : State} (hc : s.control = .idle) : (idleTurn s).control = .idle ∨
    ∃ d ch rest d', s.inbox = .present d ch :: rest ∧ presented s.responses d ch = some d' ∧
      (idleTurn s).control = .busy d' := by
  obtain h | ⟨d, ch, rest, d', hin, hp, h⟩ | ⟨a, b, rest, -, h⟩ | ⟨rest, -, h⟩ := idleTurn_cases s
  case inr.inl => exact .inr ⟨d, ch, rest, d', hin, hp, by rw [h, accept_control]⟩
  all_goals rw [h]
  · exact .inl hc
  · exact .inl hc
  · exact .inl rfl

/-- While a command is in flight and the host does not wait, a write leaves it there and reset abandons it. -/
theorem control_of_step_flight {s t : State} {d : Descriptor} (hc : s.control = .busy d) (hw : hostWaits s = false)
    (h : step s = .next t) : (t.control = .busy d ∧ ∃ a b rest, s.inbox = .write a b :: rest) ∨
      (t.control = .idle ∧ ∃ rest, s.inbox = .reset :: rest) := by
  obtain ⟨a, b, rest, hin⟩ | ⟨rest, hin⟩ := hostWaits_eq_false hw
  · cases h.symm.trans (step_of_write_busy hc hin)
    exact .inl ⟨hc, a, b, rest, hin⟩
  · cases h.symm.trans (step_of_reset hin)
    exact .inr ⟨rfl, rest, hin⟩

theorem doneTurn_control_cases {s : State} {r : Response} (hc : s.control = .done r) :
    (doneTurn r s).control = .done r ∨
      ((doneTurn r s).control = .idle ∧ ∃ rest, s.inbox = .take :: rest ∨ s.inbox = .reset :: rest) := by
  obtain h | ⟨rest, -, h⟩ | ⟨rest, hin, h⟩ | ⟨a, b, rest, -, h⟩ | ⟨rest, hin, h⟩ := doneTurn_cases r s <;> rw [h]
  case inr.inr.inl => exact .inr ⟨rfl, rest, .inl hin⟩
  case inr.inr.inr.inr => exact .inr ⟨rfl, rest, .inr hin⟩
  all_goals exact .inl hc

/-- Settles O48: each control state has its own turn. -/
theorem controlMovesOnlyAsDrawn : Obligations.ControlMovesOnlyAsDrawn := by
  refine fun s t h => ⟨fun hc => ?_, fun d hc => ?_, fun r hc => ?_⟩
  · cases h.symm.trans (step_of_idle hc)
    exact idleTurn_control hc
  · obtain ⟨hw, -⟩ | ⟨r, w, rfl⟩ := step_next_of_busy hc h
    · exact .inr (control_of_step_flight hc hw h)
    · exact .inl ⟨r, rfl⟩
  · cases h.symm.trans (step_of_done hc)
    exact doneTurn_control_cases hc

end Sys2Proof.Machine
end

section
/-! PROOFS. What the read port answers after a write of the host (20_memory.md sections 3 and 5), the chained seed
(43_null_seed_contract.md section 4), and a command from its presenting to its taking (70_reset_and_hazards.md R194). -/

namespace Sys2Proof.Machine

/-! ## Reads and writes -/

section
variable (a : Word64) (b : Byte) (s : State)

theorem racedBytes_racingWrite_same :
    racedBytes (racingWrite a b s) a.toNat = s.mem.read a.toNat :: racedBytes s a.toNat := by
  simp [racedBytes]

theorem racedBytes_racingWrite_other {x : Nat} (h : x ≠ a.toNat) :
    racedBytes (racingWrite a b s) x = racedBytes s x := by
  simp [racedBytes, Ne.symm h]

theorem racedBytes_accept (d : Descriptor) (x : Nat) : racedBytes (accept d s) x = [] := rfl

/-- What the port answers to a command just presented. -/
theorem portRead_accept (d : Descriptor) (x : Nat) :
    portRead (accept d s) x = if s.isReadable x = true then some (s.mem.read x) else none :=
  portRead_of_noRace (racedBytes_accept s d x)

end

/-- At a readable address the port answers memory's byte or one overwritten. -/
theorem portRead_of_readable {s : State} {a : Nat} (hr : s.isReadable a = true) :
    portRead s a = some (portByte s a) := by
  rw [portRead, if_pos hr]

/-- Settles O58: the port's byte, and the two turns in which a write lands after the presenting. -/
theorem racingReadsGiveTheOldOrANewByte : Obligations.RacingReadsGiveTheOldOrANewByte := by
  refine ⟨fun s a => ⟨(portRead_eq_none s a).mpr, fun hr => ?_⟩, fun s d a b rest hc hin => ?_,
    fun s r a b rest hc hin => ?_⟩
  · rw [portRead_of_readable hr]
    refine ⟨(portByte_mem s a).imp (congrArg some) fun hmem => ⟨_, hmem, rfl⟩, fun hnone => ?_⟩
    rw [portByte_of_noRace hnone]
  · refine ⟨_, step_of_write_busy hc hin, hc, rfl, ?_, racedBytes_racingWrite_same .., fun x hx => ⟨?_, ?_⟩⟩
    · rw [racingWrite_mem, Memory.read_write_same]
    · rw [racingWrite_mem, Memory.read_write_other _ _ hx]
    · rw [racedBytes_racingWrite_other _ _ _ hx]
      rfl
  · exact ⟨_, step_of_write_done hc hin, hc, rfl⟩

/-! ## Runs -/

theorem run_succ {s s' : State} (k : Nat) (h : step s = .next s') : core.run (k + 1) s = core.run k s' := by
  have hstep : core.step s = .next s' := h
  simp only [Host.Core.run, hstep]

/-- Settles O57: the write, then the presenting, which leaves nothing to race with. -/
theorem writesBeforePresentingAreSeen : Obligations.WritesBeforePresentingAreSeen := by
  intro s a b d rest hc hin
  have hwrite := step_of_write_idle hc hin
  have hpresent := step_of_present (s := hostWrite a b { s with inbox := .present d none :: rest }) hc rfl rfl
  refine ⟨_, (run_succ 1 hwrite).trans (run_succ 0 hpresent), rfl, rfl, ?_, fun x hx => ?_⟩
  · rw [portRead_accept, hostWrite_mem, Memory.read_write_same]
    rfl
  · rw [portRead_accept, hostWrite_mem, Memory.read_write_other _ _ hx]
    rfl

/-- Settles O59: the descriptor is the DIGEST above the low bits of the one presented. -/
theorem seedChainingFillsTheSeedField : Obligations.SeedChainingFillsTheSeedField := by
  intro s d n r rest hc hin hr
  have hp : presented s.responses d (some (n + 1)) = some (withSeed d r.digest) := by
    rw [presented, hr]
    rfl
  exact ⟨_, withSeed d r.digest, step_of_present hc hin hp, rfl, rfl, BitVec.extractLsb'_append_eq_left,
    BitVec.extractLsb'_append_eq_right⟩

/-! ## A command to its completion -/

/-- `t` is `s` after response `r` has been taken, the host having done `acts` since, and with `rest` still to do. -/
def TakenAfter (acts rest : List HostAction) (s t : State) (r : Response) : Prop :=
  t.control = .idle ∧ t.work = Working.reset ∧ t.responses = s.responses ++ [r] ∧ t.inbox = rest ∧
    t.mem = afterWrites acts s.mem

/-- If the descriptor is that of a buffer command with the gate open, its launch is one the spec defines. -/
def LaunchesDefined (d : Descriptor) (s : State) : Prop :=
  ∀ i, decode d = .ok i → i.buffer = true → i.gate = true → DefinedLaunch i.args s

/-- A command in flight whose launch is defined answers in one step once the host waits. -/
theorem step_respond {s : State} {d : Descriptor} (hc : s.control = .busy d) (hw : hostWaits s = true)
    (hlaunch : LaunchesDefined d s) :
    ∃ r w, step s = .next (respond r w s) := by
  cases hd : decode d with
  | error e => exact ⟨_, s.work, step_of_decode_error hc hw hd⟩
  | ok i =>
    rw [step_of_decode_ok hc hw hd]
    cases he : exec i s with
    | next t =>
      obtain ⟨r, w, rfl⟩ := exec_next he
      exact ⟨r, w, rfl⟩
    | fault f => cases f
    | refused x =>
      obtain ⟨hb, hg, hl⟩ := (exec_refused_iff i s).mp ⟨x, he⟩
      exact absurd (hlaunch i hd hb hg) hl

/-- From Done, one step for each write or wait of the host and one for taking the response. -/
theorem run_of_done {r : Response} {rest : List HostAction} (acts : List HostAction) {s : State}
    (hc : s.control = .done r) (hin : s.inbox = acts ++ .take :: rest) (hpassive : ∀ x ∈ acts, x.passive = true) :
    ∃ t, core.run (acts.length + 1) s = .next t ∧ TakenAfter acts rest s t r := by
  induction acts generalizing s with
  | nil =>
    exact ⟨_, run_succ 0 (step_of_take hc hin), rfl, rfl, rfl, rfl, rfl⟩
  | cons x xs ih =>
    obtain ⟨hx, hxs⟩ := List.forall_mem_cons.mp hpassive
    cases x
    case write a b =>
      rw [List.length_cons, run_succ _ (step_of_write_done hc hin)]
      exact ih hc rfl hxs
    case await =>
      rw [List.length_cons, run_succ _ (step_of_await_done hc hin)]
      exact ih hc rfl hxs
    all_goals cases hx

section
variable {d : Descriptor} {rest : List HostAction} {s : State}

/-- A command that is run next costs one step more. -/
theorem run_of_waiting {acts : List HostAction} (hc : s.control = .busy d) (hw : hostWaits s = true)
    (hin : s.inbox = acts ++ .take :: rest) (hpassive : ∀ x ∈ acts, x.passive = true)
    (hlaunch : LaunchesDefined d s) :
    ∃ t r, core.run (acts.length + 2) s = .next t ∧ TakenAfter acts rest s t r := by
  obtain ⟨r, w, hstep⟩ := step_respond hc hw hlaunch
  obtain ⟨t, hrun, htaken⟩ := run_of_done acts (respond_control r w s) hin hpassive
  exact ⟨t, r, (run_succ _ hstep).trans hrun, htaken⟩

/-- From Busy, the writes land until the host waits, by itself or because only taking is left; then the command runs. -/
theorem run_of_busy (acts : List HostAction) (hc : s.control = .busy d) (hin : s.inbox = acts ++ .take :: rest)
    (hpassive : ∀ x ∈ acts, x.passive = true)
    (hlaunch : LaunchesDefined d s) :
    ∃ t r, core.run (acts.length + 2) s = .next t ∧ TakenAfter acts rest s t r := by
  induction acts generalizing s with
  | nil => exact run_of_waiting hc (by rw [hostWaits, hin]; rfl) hin hpassive hlaunch
  | cons x xs ih =>
    obtain ⟨hx, hxs⟩ := List.forall_mem_cons.mp hpassive
    cases x
    case write a b =>
      rw [List.length_cons, Nat.add_right_comm, run_succ _ (step_of_write_busy hc hin)]
      exact ih hc rfl hxs hlaunch
    case await => exact run_of_waiting hc (by rw [hostWaits, hin]; rfl) hin hpassive hlaunch
    all_goals cases hx

end

/-- Settles O56: presenting, then the run from Busy. -/
theorem everyCommandRunsToCompletion : Obligations.EveryCommandRunsToCompletion := by
  intro s d d' chain between rest hc hin hp hpassive hlaunch
  obtain ⟨t, r, hrun, hidle, hwork, hresponses, hinbox, hmem⟩ :=
    run_of_busy (s := accept d' { s with inbox := between ++ .take :: rest }) between rfl rfl hpassive hlaunch
  exact ⟨t, r, (run_succ _ (step_of_present hc hin hp)).trans hrun, hidle, hwork, hresponses, hinbox, hmem⟩

end Sys2Proof.Machine
end
